-- ==== Sys2Proof/Word.lean ====
section
/-! DEFINITION. The plainest types of the block: the 32-bit port word, the 8-bit identity, the one-bit level and
phase (00_scope.md R13, 42_edge.md R120, 40_poll.md R86). -/

namespace Sys2Proof

/-- A 32-bit word: a port register, a command word, an event item, and a tick value zero extended to 32 bits. -/
abbrev Word := BitVec 32

/-- An 8-bit value: a task identity, a slot index, a mailbox index or a selector (00_scope.md R8, 30_encoding.md R67). -/
abbrev Byte := BitVec 8

/-- A logic level, `Low` or `High` (42_edge.md R120). -/
inductive Level where
  | low
  | high
  deriving DecidableEq, Repr

/-- The phase of a wait, which the host keeps and passes to a poll (10_state.md R44). -/
inductive Phase where
  | init
  | wait
  deriving DecidableEq, Repr

/-- 0 = Low, 1 = High (42_edge.md R120). -/
def Level.toBool : Level → Bool
  | .low => false
  | .high => true

/-- 0 = Low, 1 = High (42_edge.md R120). -/
def Level.ofBool : Bool → Level
  | false => .low
  | true => .high

/-- 0 = Init, 1 = Wait (40_poll.md R86). -/
def Phase.toBool : Phase → Bool
  | .init => false
  | .wait => true

/-- 0 = Init, 1 = Wait (40_poll.md R86). -/
def Phase.ofBool : Bool → Phase
  | false => .init
  | true => .wait

end Sys2Proof
end

