-- ==== Sys2Proof/Syntax.lean ====
section
/-! DEFINITION. The operation set of the block, one constructor for each row of spec/opcode_table.json: fifteen host
operations, three service steps and two environment steps (00_scope.md R1, 30_encoding.md R72, R81). -/

namespace Sys2Proof

/-- A step of the block. A host operation carries the operands of its command word; its 32-bit operand, where it has
one, is read from ARG when it is performed (30_encoding.md R66). -/
inductive Instr where
  /-- TK_INIT (R104). -/
  | tkInit
  /-- TK_NOW (R105). -/
  | tkNow
  /-- TK_START, ARG = duration (R106). -/
  | tkStart
  /-- TK_POLL, TID = calling task, B = phase, ARG = end time (R107). -/
  | tkPoll (tid : Byte) (ph : Phase)
  /-- EW_SET, IDX = slot, B = level (R122). -/
  | ewSet (slot : Byte) (lvl : Level)
  /-- EW_POLL, TID = calling task, IDX = slot (R123). -/
  | ewPoll (tid slot : Byte)
  /-- EX_INIT (R142). -/
  | exInit
  /-- WAKE, TID = any 8-bit value (R143). -/
  | wake (tid : Byte)
  /-- WAKE_WK, ARG = waker handle (R144). -/
  | wakeWk
  /-- WK_GET, TID = task (R148). -/
  | wkGet (tid : Byte)
  /-- EX_NEXT (R145). -/
  | exNext
  /-- EX_SLEEP (R146). -/
  | exSleep
  /-- MB_SEND, IDX = mailbox, ARG = item (R133). -/
  | mbSend (mbox : Byte)
  /-- MB_RECV, TID = calling task, IDX = mailbox, B = phase (R134). -/
  | mbRecv (tid mbox : Byte) (ph : Phase)
  /-- ST_GET, IDX = selector, TID = sub-index (R157). -/
  | stGet (sel sub : Byte)
  /-- SVC_CMP, the compare-match service (R110). -/
  | svcCmp
  /-- SVC_WRAP, the counter-wrap service (R111). -/
  | svcWrap
  /-- SVC_EDGE(l), the edge service of line l (R127). -/
  | svcEdge (line : Nat)
  /-- TICK, the passing of one tick (R109). -/
  | tick
  /-- PIN(l, v), the change of the level of line l to v (R126). -/
  | pin (line : Nat) (v : Level)
  deriving DecidableEq, Repr

/-- The fifteen rows that have an encoding (30_encoding.md R72); the other five have none (R81). -/
def Instr.isHostOp : Instr → Bool
  | .tkInit | .tkNow | .tkStart | .tkPoll _ _ | .ewSet _ _ | .ewPoll _ _ | .exInit | .wake _ | .wakeWk | .wkGet _
  | .exNext | .exSleep | .mbSend _ | .mbRecv _ _ _ | .stGet _ _ => true
  | .svcCmp | .svcWrap | .svcEdge _ | .tick | .pin _ _ => false

end Sys2Proof
end

