-- ==== Sys2Proof/Decode.lean ====
section
/-! DEFINITION. Decoding a command word and encoding an operation (30_encoding.md R66 to R76). -/

namespace Sys2Proof

/-- OPC, bits [31:24] (R67). -/
def fieldOpc (w : Word) : Byte := w.extractLsb' 24 8

/-- TID, bits [23:16] (R67). -/
def fieldTid (w : Word) : Byte := w.extractLsb' 16 8

/-- IDX, bits [15:8] (R67). -/
def fieldIdx (w : Word) : Byte := w.extractLsb' 8 8

/-- RSV, bits [7:1] (R67). -/
def fieldRsv (w : Word) : BitVec 7 := w.extractLsb' 1 7

/-- B, bit [0] (R67). -/
def fieldB (w : Word) : Bool := w.getLsbD 0

/-- The command word with the given fields and RSV zero (R67). -/
def packWord (opc tid idx : Byte) (b : Bool) : Word := opc ++ tid ++ idx ++ 0#7 ++ BitVec.ofBool b

/-- The formats of R68. -/
inductive Format where
  | n | a | t | tpa | il | ti | ia | tip | s
  deriving DecidableEq, Repr

/-- The column TID of R68: used or zero. -/
def Format.usesTid : Format → Bool
  | .t | .tpa | .ti | .tip | .s => true
  | .n | .a | .il | .ia => false

/-- The column IDX of R68: used or zero. -/
def Format.usesIdx : Format → Bool
  | .il | .ti | .ia | .tip | .s => true
  | .n | .a | .t | .tpa => false

/-- The column B of R68: a phase or a level, or zero. -/
def Format.usesB : Format → Bool
  | .tpa | .il | .tip => true
  | .n | .a | .t | .ti | .ia | .s => false

/-- Every field the format does not use, and RSV, is zero (R68, R74). -/
def Format.accepts (f : Format) (w : Word) : Bool :=
  (f.usesTid || fieldTid w == 0#8) && (f.usesIdx || fieldIdx w == 0#8) && (f.usesB || !fieldB w) && fieldRsv w == 0#7

/-- The fifteen rows of the opcode map (R72). -/
inductive Opcode where
  | tkInit | tkNow | tkStart | tkPoll | ewSet | ewPoll | exInit | wake | wakeWk | wkGet | exNext | exSleep | mbSend
  | mbRecv | stGet
  deriving DecidableEq, Repr

/-- The rows in the table's order (R72). -/
def Opcode.all : List Opcode :=
  [.tkInit, .tkNow, .tkStart, .tkPoll, .ewSet, .ewPoll, .exInit, .wake, .wakeWk, .wkGet, .exNext, .exSleep, .mbSend,
    .mbRecv, .stGet]

/-- The column OPC of R72. -/
def Opcode.code : Opcode → Byte
  | .tkInit => 0x10#8
  | .tkNow => 0x11#8
  | .tkStart => 0x12#8
  | .tkPoll => 0x13#8
  | .ewSet => 0x20#8
  | .ewPoll => 0x21#8
  | .exInit => 0x30#8
  | .wake => 0x31#8
  | .wakeWk => 0x32#8
  | .wkGet => 0x33#8
  | .exNext => 0x34#8
  | .exSleep => 0x35#8
  | .mbSend => 0x40#8
  | .mbRecv => 0x41#8
  | .stGet => 0x50#8

/-- The column format of R72. -/
def Opcode.format : Opcode → Format
  | .tkInit => .n
  | .tkNow => .n
  | .tkStart => .a
  | .tkPoll => .tpa
  | .ewSet => .il
  | .ewPoll => .ti
  | .exInit => .n
  | .wake => .t
  | .wakeWk => .a
  | .wkGet => .t
  | .exNext => .n
  | .exSleep => .n
  | .mbSend => .ia
  | .mbRecv => .tip
  | .stGet => .s

/-- The column match of R72. -/
def Opcode.matchWord : Opcode → Word
  | .tkInit => 0x10000000#32
  | .tkNow => 0x11000000#32
  | .tkStart => 0x12000000#32
  | .tkPoll => 0x13000000#32
  | .ewSet => 0x20000000#32
  | .ewPoll => 0x21000000#32
  | .exInit => 0x30000000#32
  | .wake => 0x31000000#32
  | .wakeWk => 0x32000000#32
  | .wkGet => 0x33000000#32
  | .exNext => 0x34000000#32
  | .exSleep => 0x35000000#32
  | .mbSend => 0x40000000#32
  | .mbRecv => 0x41000000#32
  | .stGet => 0x50000000#32

/-- The column mask of R72. -/
def Opcode.mask : Opcode → Word
  | .tkInit => 0xFFFFFFFF#32
  | .tkNow => 0xFFFFFFFF#32
  | .tkStart => 0xFFFFFFFF#32
  | .tkPoll => 0xFF00FFFE#32
  | .ewSet => 0xFFFF00FE#32
  | .ewPoll => 0xFF0000FF#32
  | .exInit => 0xFFFFFFFF#32
  | .wake => 0xFF00FFFF#32
  | .wakeWk => 0xFFFFFFFF#32
  | .wkGet => 0xFF00FFFF#32
  | .exNext => 0xFFFFFFFF#32
  | .exSleep => 0xFFFFFFFF#32
  | .mbSend => 0xFFFF00FF#32
  | .mbRecv => 0xFF0000FE#32
  | .stGet => 0xFF0000FF#32

/-- The row whose OPC a byte is, if any (R72, R73). -/
def Opcode.ofCode (b : Byte) : Option Opcode := Opcode.all.find? (fun o => o.code == b)

/-- The operation of a row with the operands of a command word (R67, R68). -/
def Opcode.instr (o : Opcode) (w : Word) : Instr :=
  match o with
  | .tkInit => .tkInit
  | .tkNow => .tkNow
  | .tkStart => .tkStart
  | .tkPoll => .tkPoll (fieldTid w) (Phase.ofBool (fieldB w))
  | .ewSet => .ewSet (fieldIdx w) (Level.ofBool (fieldB w))
  | .ewPoll => .ewPoll (fieldTid w) (fieldIdx w)
  | .exInit => .exInit
  | .wake => .wake (fieldTid w)
  | .wakeWk => .wakeWk
  | .wkGet => .wkGet (fieldTid w)
  | .exNext => .exNext
  | .exSleep => .exSleep
  | .mbSend => .mbSend (fieldIdx w)
  | .mbRecv => .mbRecv (fieldTid w) (fieldIdx w) (Phase.ofBool (fieldB w))
  | .stGet => .stGet (fieldIdx w) (fieldTid w)

/-- Why a command word is not an operation. -/
inductive DecodeError where
  /-- No row has the word's OPC (R73). -/
  | unknownOpcode
  /-- A one bit in RSV or in a field the row's format does not use (R74). -/
  | nonzeroField
  deriving DecidableEq, Repr

/-- The decoder, total on every word (R72 to R74, R76). -/
def decode (w : Word) : Except DecodeError Instr :=
  match Opcode.ofCode (fieldOpc w) with
  | none => .error .unknownOpcode
  | some o => if o.format.accepts w then .ok (o.instr w) else .error .nonzeroField

/-- The command word of a host operation; the service and environment steps have no encoding (R67, R72, R81). -/
def encode : Instr → Option Word
  | .tkInit => some (packWord 0x10#8 0#8 0#8 false)
  | .tkNow => some (packWord 0x11#8 0#8 0#8 false)
  | .tkStart => some (packWord 0x12#8 0#8 0#8 false)
  | .tkPoll tid ph => some (packWord 0x13#8 tid 0#8 ph.toBool)
  | .ewSet slot lvl => some (packWord 0x20#8 0#8 slot lvl.toBool)
  | .ewPoll tid slot => some (packWord 0x21#8 tid slot false)
  | .exInit => some (packWord 0x30#8 0#8 0#8 false)
  | .wake tid => some (packWord 0x31#8 tid 0#8 false)
  | .wakeWk => some (packWord 0x32#8 0#8 0#8 false)
  | .wkGet tid => some (packWord 0x33#8 tid 0#8 false)
  | .exNext => some (packWord 0x34#8 0#8 0#8 false)
  | .exSleep => some (packWord 0x35#8 0#8 0#8 false)
  | .mbSend mbox => some (packWord 0x40#8 0#8 mbox false)
  | .mbRecv tid mbox ph => some (packWord 0x41#8 tid mbox ph.toBool)
  | .stGet sel sub => some (packWord 0x50#8 sub sel false)
  | .svcCmp => none
  | .svcWrap => none
  | .svcEdge _ => none
  | .tick => none
  | .pin _ _ => none

/-- The command word of nbits bits numbered as spec/opcode_table.json numbers them, bits above nbits zero. -/
def tableWord (nbits w : Nat) : Word := BitVec.ofNat 32 (w % 2 ^ nbits)

/-- The operation the decoder reads from a word of the opcode table; none where it refuses. -/
def decodeTableWord (nbits w : Nat) : Option Instr := (decode (tableWord nbits w)).toOption

end Sys2Proof
end

