-- ==== Sys2Proof/Config.lean ====
section
/-! DEFINITION. What an implementation fixes: the parameters of 00_scope.md R6 to R12, the constants, and the one free
value of the model, the election HEAP_TIE (41_ticker.md R99). -/

namespace Sys2Proof

/-- A deadline entry: an absolute tick deadline and a task identity or HEARTBEAT_ID (10_state.md R27). -/
structure Entry where
  d : Word
  id : Byte
  deriving DecidableEq, Repr

/-- How the top is elected among entries of equal signed distance (41_ticker.md R99). `free` leaves the election open,
so that a claim holds for every election; `array` is the reference array heap of R100. PRESUMED (log 6): `array` is a
passage from general knowledge, a configuration switch and not the default. -/
inductive TieRule where
  | free
  | array
  deriving DecidableEq, Repr

/-- The implementation parameters (00_scope.md R6 to R12), plain data. -/
structure Config where
  /-- TICK_W, the width of the tick counter (R6). -/
  tickW : Nat
  /-- RQ_CAP, the ready-queue capacity (R7). -/
  rqCap : Nat
  /-- HEAP_CAP, the deadline-heap capacity (R7). -/
  heapCap : Nat
  /-- NTASK, the number of tasks (R8). -/
  ntask : Nat
  /-- NLINE, the number of input lines (R9). -/
  nline : Nat
  /-- LINE_OF_SLOT as a list, slot by slot: the inverse of SLOT_OF_LINE. Its length is NSLOT (R9). -/
  lineOfSlot : List Nat
  /-- EDGE_RISE, line by line (R9). -/
  edgeRise : List Bool
  /-- EDGE_FALL, line by line (R9). -/
  edgeFall : List Bool
  /-- NMBOX, the number of mailboxes (R10). -/
  nmbox : Nat
  /-- HEARTBEAT_TICKS (R11). -/
  heartbeat : Nat
  /-- CNT_RESET (R12). -/
  cntReset : Nat
  /-- PIN_RESET, line by line (R12). -/
  pinReset : List Level
  /-- HEAP_TIE (R12, R99, R100). -/
  tie : TieRule
  /-- SVC_LAT, a premise of proofs that no transition uses (R12, 70_reset_and_hazards.md R214). -/
  svcLat : Nat
  deriving DecidableEq, Repr

/-- MOD = 2^TICK_W (00_scope.md R6). -/
def Config.mod (c : Config) : Nat := 2 ^ c.tickW

/-- HALF = 2^(TICK_W-1) (00_scope.md R6). -/
def Config.half (c : Config) : Nat := 2 ^ (c.tickW - 1)

/-- MAX_DUR = HALF - 1 (00_scope.md R6). -/
def Config.maxDur (c : Config) : Nat := c.half - 1

/-- NSLOT, the number of wake slots (00_scope.md R9). -/
def Config.nslot (c : Config) : Nat := c.lineOfSlot.length

/-- The default HEARTBEAT_TICKS for a counter of w bits: min(86 400 000, MAX_DUR) (00_scope.md R11). -/
def Config.defaultHeartbeat (w : Nat) : Nat := min 86400000 (2 ^ (w - 1) - 1)

/-- The default of every parameter (00_scope.md R6 to R12). PIN_RESET is open; High is the level the spec's test vectors
take. DESIGN CHOICE (log 3): SVC_LAT has no default in the spec; 0 stands here and no transition reads it. -/
def Config.default : Config where
  tickW := 32
  rqCap := 4
  heapCap := 8
  ntask := 2
  nline := 4
  lineOfSlot := [0]
  edgeRise := [true, false, false, false]
  edgeFall := [true, false, false, false]
  nmbox := 1
  heartbeat := 86400000
  cntReset := 0
  pinReset := [.high, .high, .high, .high]
  tie := .free
  svcLat := 0

/-- NO_TASK, the sentinel of wake slots and of the mailbox waker slot (00_scope.md R8). -/
def noTask : Byte := 0xFF#8

/-- HEARTBEAT_ID, the reserved identity of the heartbeat entry (00_scope.md R8). -/
def heartbeatId : Byte := 0xFE#8

/-- WAKER_MAGIC, the upper 24 bits of a waker handle (00_scope.md R12). -/
def wakerMagic : BitVec 24 := 0x57414B#24

/-- The free value of the election HEAP_TIE (41_ticker.md R99): which of several entries of minimal signed distance is
the top, as a position among them taken modulo their number. It has no body: nothing can be proved of its value. Its
arguments are what R99 lets an election depend on: the internal arrangement of H, named by the model's counter
`arrangement` together with the entries, and now. DESIGN CHOICE (log 4): the form in which the election is left open. -/
opaque Config.heapTie (arrangement : Nat) (h : List Entry) (now : Word) : Nat

end Sys2Proof
end

