-- ==== Sys2Proof/Machine/State.lean ====
section
/-! DEFINITION. The state of the block as plain data, its value after reset, and the reasons a step can stop
(10_state.md R16 to R49). -/

namespace Sys2Proof.Machine

/-- The width of a port access. Only a word is a legal width (20_memory.md R55). -/
inductive AccessWidth where
  | byte
  | half
  | word
  deriving DecidableEq, Repr

/-- What one agent does next (00_scope.md R3, 20_memory.md R65). The list `State.agenda` of these says which agent moves
next, so that a statement over every agenda is one over every interleaving (60_exceptions.md R182). -/
inductive Event where
  /-- HOST writes v to the port register at a byte offset: `RegWrite(off, v)` (R51). -/
  | write (off : Nat) (width : AccessWidth) (v : Word)
  /-- HOST reads the port register at a byte offset: `RegRead(off)` (R51). -/
  | read (off : Nat) (width : AccessWidth)
  /-- One tick period passes (R65, R109). -/
  | tick
  /-- The synchronised level of a line becomes v (R65, R126). -/
  | pin (line : Nat) (v : Level)
  /-- The sequencer of the compare-match service (R110). -/
  | svcCmp
  /-- The sequencer of the counter-wrap service (R111). -/
  | svcWrap
  /-- The sequencer of the edge service of a line (R127). -/
  | svcEdge (line : Nat)
  /-- The reset input is asserted and released (R65, R197). -/
  | reset
  deriving DecidableEq, Repr

/-- A wake slot: WS[s] and TARGET[s] (10_state.md R35, R36). -/
structure Slot where
  ws : Byte
  target : Level
  deriving DecidableEq, Repr

/-- A mailbox: MBF[m], MBI[m] and MBW[m] (10_state.md R37, R38). -/
structure Mailbox where
  mbf : Bool
  mbi : Word
  mbw : Byte
  deriving DecidableEq, Repr

/-- The state of the block (10_state.md R16), with four fields of the model's own: cfg, arrangement, agenda, rdata. -/
structure State where
  /-- The model's own: the implementation parameters of 00_scope.md R6 to R12, which no step writes (log 3). -/
  cfg : Config
  /-- CNT, TICK_W bits, zero extended (R17). -/
  cnt : Word
  /-- CMP, TICK_W bits, zero extended (R18). -/
  cmp : Word
  /-- CIE (R19). -/
  cie : Bool
  /-- CF (R20). -/
  cf : Bool
  /-- WF (R21). -/
  wf : Bool
  /-- TKEN (R22). -/
  tken : Bool
  /-- H, the deadline entries (R28). -/
  heap : List Entry
  /-- The model's own: the number of the internal arrangement of H (R99, log 4). -/
  arrangement : Nat
  /-- RQ, head first (R23). -/
  rq : List Byte
  /-- EXEN (R24). -/
  exen : Bool
  /-- SLEEP (R25). -/
  sleep : Bool
  /-- PIN[l], line by line (R32). -/
  pin : List Level
  /-- PEND[l], line by line (R33). -/
  pend : List Bool
  /-- WS[s] and TARGET[s], slot by slot (R35, R36). -/
  slots : List Slot
  /-- MBF[m], MBI[m] and MBW[m], mailbox by mailbox (R37, R38). -/
  mboxes : List Mailbox
  /-- CMD (R39). -/
  cmd : Word
  /-- ARG (R40). -/
  arg : Word
  /-- RES0 (R41). -/
  res0 : Word
  /-- RES1 (R41). -/
  res1 : Word
  /-- STATUS (R42). -/
  status : Word
  /-- FCAUSE (R43). -/
  fcause : Word
  /-- FINFO (R43). -/
  finfo : Word
  /-- The model's own: the word the port returned at the last register read (R51, log 5). -/
  rdata : Word
  /-- The model's own: what the agents do next (R182, log 1). -/
  agenda : List Event
  deriving DecidableEq, Repr

/-- The block never stops with a fault: every operation and step ends in a next state, the fatal halt included
(60_exceptions.md R186). Hence no constructor. -/
inductive Fault where
  deriving DecidableEq, Repr

/-- Why the model gives a step no meaning. -/
inductive Refusal where
  /-- Raised by `exec` for an instruction that has no meaning yet; safe. No arm raises it. -/
  | notModelled (mnemonic : String)
  /-- Raised by a port access of a byte or a halfword, which the spec tells a model to refuse (20_memory.md R55); safe. -/
  | narrowAccess (off : Nat)
  /-- Raised by a word access at an offset that is no multiple of 4, which the spec tells a model to refuse
  (20_memory.md R55); safe. -/
  | unalignedAccess (off : Nat)
  /-- Raised by an access at an offset from 0x1C up: the block does not respond and what the bus then does is not
  specified (20_memory.md R51); safe. -/
  | outsideBlock (off : Nat)
  deriving DecidableEq, Repr

/-- The state after reset of a block with parameters c (10_state.md R49). The fields arrangement, rdata and agenda are
the model's own. DESIGN CHOICE (log 1, log 4, log 5): their values here. -/
def State.init (c : Config) : State where
  cfg := c
  cnt := BitVec.ofNat 32 c.cntReset
  cmp := 0#32
  cie := false
  cf := false
  wf := false
  tken := false
  heap := []
  arrangement := 0
  rq := []
  exen := false
  sleep := false
  pin := c.pinReset
  pend := List.replicate c.nline false
  slots := List.replicate c.nslot (Slot.mk noTask Level.low)
  mboxes := List.replicate c.nmbox (Mailbox.mk false 0#32 noTask)
  cmd := 0#32
  arg := 0#32
  res0 := 0#32
  res1 := 0#32
  status := 0#32
  fcause := 0#32
  finfo := 0#32
  rdata := 0#32
  agenda := []

/-- The block right after reset, with every parameter at its default (10_state.md R49, 00_scope.md R6 to R12). -/
def State.reset : State := State.init Config.default

end Sys2Proof.Machine
end

