-- ==== Sys2Proof/Machine/Operands.lean ====
section
/-! DEFINITION. Operand forms and value computations: tick arithmetic (41_ticker.md R91 to R94), the operand ranges of
30_encoding.md R69 and R70, the poll word (R71), the codes (R80, 60_exceptions.md R172), the waker handle
(44_executor.md R147) and the maps between lines and slots (00_scope.md R9). -/

namespace Sys2Proof.Machine

/-- `a +t b` = (a + b) mod MOD (R13, R91). DEDUCED (log 10): tick values are held in 32 bits. -/
def tAdd (c : Config) (a b : Word) : Word := BitVec.ofNat 32 ((a.toNat + b.toNat) % c.mod)

/-- `a -t b` = (a - b) mod MOD, the non-negative remainder (R13, R91). -/
def tSub (c : Config) (a b : Word) : Word := BitVec.ofInt 32 (((a.toNat : Int) - (b.toNat : Int)) % (c.mod : Int))

/-- `elapsed(d, now)` := (now -t d) < HALF (R93). -/
def elapsed (c : Config) (d now : Word) : Bool := decide ((tSub c now d).toNat < c.half)

/-- `sdist(d, now)`: d -t now read as a signed TICK_W-bit number (R94). -/
def sdist (c : Config) (d now : Word) : Int :=
  if c.half ≤ (tSub c d now).toNat then ((tSub c d now).toNat : Int) - (c.mod : Int) else ((tSub c d now).toNat : Int)

/-- The instant a 32-bit operand stands for: its bits [TICK_W-1:0] (R69). -/
def instantOf (c : Config) (v : Word) : Word := BitVec.ofNat 32 (v.toNat % c.mod)

/-- A parameter of the configuration as a tick value, for CNT +t HEARTBEAT_TICKS (R101). -/
def heartbeatTicks (c : Config) : Word := BitVec.ofNat 32 c.heartbeat

/-- `valid(t)`: t < NTASK (R8). -/
def validTid (c : Config) (t : Byte) : Bool := decide (t.toNat < c.ntask)

/-- A slot index is in range: below NSLOT (R70). -/
def slotInRange (c : Config) (s : Byte) : Bool := decide (s.toNat < c.nslot)

/-- A mailbox index is in range: below NMBOX (R70). -/
def mboxInRange (c : Config) (m : Byte) : Bool := decide (m.toNat < c.nmbox)

/-- A duration is in range: at most MAX_DUR (R69). -/
def durationInRange (c : Config) (v : Word) : Bool := decide (v.toNat ≤ c.maxDur)

/-- An end time is in range: below MOD (R69). -/
def endTimeInRange (c : Config) (v : Word) : Bool := decide (v.toNat < c.mod)

/-- LINE_OF_SLOT(s); a slot out of range, which no operation asks for, gives line 0 (R9, R119). -/
def lineOfSlot (c : Config) (s : Nat) : Nat := c.lineOfSlot.getD s 0

/-- SLOT_OF_LINE(l), `none` where l is an unconfigured line (R9, R119). -/
def slotOfLine (c : Config) (l : Nat) : Option Nat := c.lineOfSlot.findIdx? (fun x => x == l)

/-- The waker handle of a task: WAKER_MAGIC above the identity (R147). -/
def wakerHandle (t : Byte) : Word := wakerMagic ++ t

/-- The identity a waker handle carries: bits [7:0] (R147). -/
def wakerTid (v : Word) : Byte := v.extractLsb' 0 8

/-- A known waker: bits [31:8] are WAKER_MAGIC and bits [7:0] are below NTASK (R147). -/
def knownWaker (c : Config) (v : Word) : Bool := v.extractLsb' 8 24 == wakerMagic && validTid c (wakerTid v)

/-- The poll word: bit 0 READY, bit 1 PHN (R71, R86). -/
def pollWord (ready phn : Bool) : Word := BitVec.ofNat 32 (ready.toNat + 2 * phn.toNat)

/-- The status codes (R80). -/
inductive StatusCode where
  | ok
  | errIllegal
  | errRange
  | errState
  deriving DecidableEq, Repr

/-- The number of a status code, in STATUS bits [3:0] (R42, R80). -/
def statusWord : StatusCode → Word
  | .ok => 0#32
  | .errIllegal => 1#32
  | .errRange => 2#32
  | .errState => 3#32

/-- The fatal causes (R172). -/
inductive FatalCause where
  | rqFull
  | heapFull
  | unknownWaker
  deriving DecidableEq, Repr

/-- The number of a fatal cause, in FCAUSE bits [1:0] (R43, R172). -/
def causeWord : FatalCause → Word
  | .rqFull => 1#32
  | .heapFull => 2#32
  | .unknownWaker => 3#32

/-- The kinds EMPTY, TASK and SKIP that EX_NEXT returns in RES0 (R145). -/
inductive NextKind where
  | empty
  | task
  | skip
  deriving DecidableEq, Repr

/-- The number of a result kind of EX_NEXT (R145). -/
def nextKindWord : NextKind → Word
  | .empty => 0#32
  | .task => 1#32
  | .skip => 2#32

end Sys2Proof.Machine
end

