-- ==== Sys2Proof/Machine/Flags.lean ====
section
/-! DEFINITION. Every flag computation: FATAL, the enabling conditions of the steps (60_exceptions.md R178, R182), the
flags TICK and PIN set (41_ticker.md R109, 42_edge.md R126) and the flag words ST_GET returns (45_status.md R157). -/

namespace Sys2Proof.Machine

/-- FATAL is FCAUSE != 0 (R43); also the `fatal` output (R65). -/
def State.fatal (s : State) : Bool := s.fcause != 0#32

/-- HOST may take a step: FATAL = 0 and SLEEP = 0 (R79 (0), R182). -/
def State.hostReady (s : State) : Bool := !s.fatal && !s.sleep

/-- SVC_CMP is enabled (R110). -/
def State.svcCmpReady (s : State) : Bool := !s.fatal && s.tken && s.cf && s.cie

/-- SVC_WRAP is enabled (R111). -/
def State.svcWrapReady (s : State) : Bool := !s.fatal && s.tken && s.wf

/-- PEND[l]; a line the block does not have is never pending. -/
def State.pendAt (s : State) (l : Nat) : Bool := s.pend.getD l false

/-- PIN[l]; only asked for lines below NLINE. -/
def State.pinAt (s : State) (l : Nat) : Level := s.pin.getD l Level.low

/-- SVC_EDGE(l) is enabled (R127). -/
def State.svcEdgeReady (s : State) (l : Nat) : Bool := !s.fatal && s.pendAt l

/-- TICK is enabled (R109). -/
def State.tickReady (s : State) : Bool := !s.fatal

/-- PIN(l, v) is enabled: FATAL = 0, l < NLINE and v != PIN[l] (R126). -/
def State.pinReady (s : State) (l : Nat) (v : Level) : Bool := !s.fatal && decide (l < s.cfg.nline) && v != s.pinAt l

/-- CF after a TICK that makes the counter now: set on a match with CMP, whatever CIE is, else kept (R20, R109). -/
def cfAfterTick (s : State) (now : Word) : Bool := s.cf || now == s.cmp

/-- WF after a TICK that makes the counter now: set when the counter wrapped to 0, else kept (R21, R109). -/
def wfAfterTick (s : State) (now : Word) : Bool := s.wf || now == 0#32

/-- The edge of line l to level v sets PEND[l]: EDGE_RISE[l] for a change to High, EDGE_FALL[l] for one to Low (R124). -/
def edgeEnabled (c : Config) (l : Nat) : Level → Bool
  | .high => c.edgeRise.getD l false
  | .low => c.edgeFall.getD l false

/-- A sequence of bits as a number, the first bit least significant: the sum over l of bit l shifted left by l (R157). -/
def bitsNat : List Bool → Nat
  | [] => 0
  | b :: bs => b.toNat + 2 * bitsNat bs

/-- CF | CIE << 1 | WF << 2 | TKEN << 3 | EXEN << 4 (R157, selector 1). -/
def State.flagsWord (s : State) : Word := BitVec.ofNat 32 (bitsNat [s.cf, s.cie, s.wf, s.tken, s.exen])

/-- The sum over l of PIN[l] << l (R157, selector 5). -/
def State.pinWord (s : State) : Word := BitVec.ofNat 32 (bitsNat (s.pin.map Level.toBool))

/-- The sum over l of PEND[l] << l (R157, selector 5). -/
def State.pendWord (s : State) : Word := BitVec.ofNat 32 (bitsNat s.pend)

/-- MBF | MBW << 8 (R157, selector 7). -/
def mailboxWord (m : Mailbox) : Word := BitVec.ofNat 32 (m.mbf.toNat + 256 * m.mbw.toNat)

end Sys2Proof.Machine
end

