-- ==== Sys2Proof/Machine/Ops.lean ====
section
/-! DEFINITION. The shared operations: results (30_encoding.md R71, R79), the fatal halt (60_exceptions.md R186), the ready
queue (10_state.md R26, 44_executor.md R139), the deadline heap (41_ticker.md R96 to R100), `heap_service()`
(R101 to R103), and reset (70_reset_and_hazards.md R197). -/

namespace Sys2Proof.Machine

/-! ## The end of a host operation -/

/-- A host operation ends OK: RES0, RES1 as given and STATUS = OK (R71). -/
def State.done (s : State) (r0 r1 : Word) : State := { s with res0 := r0, res1 := r1, status := statusWord .ok }

/-- `return STATUS(code)` with a code other than OK: STATUS is the code, RES0 and RES1 are 0 (R79). -/
def State.fail (s : State) (code : StatusCode) : State :=
  { s with res0 := 0#32, res1 := 0#32, status := statusWord code }

/-! ## The fatal halt -/

/-- `raise Fatal(cause, info)`: the block's one exception. It writes FCAUSE and FINFO, and nothing else; what the step
wrote before is kept (R186, R187). There is no saved context, no handler and no return: only reset leaves the halt
(R171, R188). -/
def State.raiseFatal (s : State) (cause : FatalCause) (info : Word) : State :=
  { s with fcause := causeWord cause, finfo := info }

/-- Where a step is inside its pseudocode: it goes on from a state, or `raise Fatal` ended it in a state (R186). -/
inductive Flow where
  | go (s : State)
  | halt (s : State)
  deriving DecidableEq, Repr

/-- The next line of the pseudocode, not performed after a raise (R183, R186). -/
def Flow.andThen : Flow → (State → Flow) → Flow
  | .go s, k => k s
  | .halt s, _ => .halt s

/-- The last lines of the pseudocode, not performed after a raise; the state in which the step ends. -/
def Flow.finish : Flow → (State → State) → State
  | .go s, k => k s
  | .halt s, _ => s

/-- A step of an agent that is taken when it is enabled. An offered step that is not enabled is not a step: the state
stays as it is (R79 (0), R182, R218). DESIGN CHOICE (log 2): such an offer is answered by the unchanged state. -/
def State.when (s : State) (enabled : Bool) (after : State) : Host.Outcome State Fault Refusal :=
  if enabled then .next after else .next s

/-! ## The ready queue -/

/-- `rq_full()` (R26). -/
def State.rqFull (s : State) : Bool := decide (s.rq.length = s.cfg.rqCap)

/-- `rq_append(t)` (R26). -/
def State.rqAppend (s : State) (t : Byte) : State := { s with rq := s.rq ++ [t] }

/-- `wake(t)`: fatal on a full queue, else the value is appended, unchecked and unmerged (R139, R140). -/
def State.wake (s : State) (t : Byte) : Flow :=
  if s.rqFull then .halt (s.raiseFatal .rqFull (t.zeroExtend 32)) else .go (s.rqAppend t)

/-- `wake` of several identities in order, up to the first raise (R142, R183). -/
def wakeAll : List Byte → State → Flow
  | [], s => .go s
  | t :: ts, s => (s.wake t).andThen (wakeAll ts)

/-! ## The deadline heap -/

/-- Exchange two places of the array, if both exist (R100). -/
def swapAt (a : List Entry) (i j : Nat) : List Entry :=
  match a[i]?, a[j]? with
  | some x, some y => (a.set i y).set j x
  | _, _ => a

/-- `lt(A[i], A[j])` of R100, false where a place does not exist. -/
def ltAt (c : Config) (now : Word) (a : List Entry) (i j : Nat) : Bool :=
  match a[i]?, a[j]? with
  | some x, some y => decide (sdist c x.d now < sdist c y.d now)
  | _, _ => false

/-- The loop of `heap_push` in the reference array heap (R100); the number bounds its turns. PRESUMED (log 6). -/
def siftUp (c : Config) (now : Word) : Nat → Nat → List Entry → List Entry
  | 0, _, a => a
  | n + 1, i, a =>
    if decide (0 < i) && ltAt c now a i ((i - 1) / 2) then siftUp c now n ((i - 1) / 2) (swapAt a i ((i - 1) / 2)) else a

/-- The place m that the loop of `heap_pop` settles on for place i: the smaller child if it is below A[i], the left one
on a tie (R100). PRESUMED (log 6). -/
def siftPick (c : Config) (now : Word) (a : List Entry) (i : Nat) : Nat :=
  let m := if ltAt c now a (2 * i + 1) i then 2 * i + 1 else i
  if ltAt c now a (2 * i + 2) m then 2 * i + 2 else m

/-- The loop of `heap_pop` in the reference array heap (R100); the number bounds its turns. PRESUMED (log 6). -/
def siftDown (c : Config) (now : Word) : Nat → Nat → List Entry → List Entry
  | 0, _, a => a
  | n + 1, i, a =>
    if siftPick c now a i = i then a
    else siftDown c now n (siftPick c now a i) (swapAt a i (siftPick c now a i))

/-- H after an entry is added: the multiset gains the entry (R96); the order of the list is the arrangement, which under
the reference array heap is that of R100. -/
def heapInsert (c : Config) (now : Word) (h : List Entry) (e : Entry) : List Entry :=
  match c.tie with
  | .free => h ++ [e]
  | .array => siftUp c now (h.length + 1) h.length (h ++ [e])

/-- The reference array heap without its first entry: the last entry takes its place and sinks (R100). -/
def arrayPop (c : Config) (now : Word) (h : List Entry) : List Entry :=
  match h with
  | [] => []
  | [_] => []
  | _ :: b :: rest => siftDown c now (rest.length + 1) 0 ((b :: rest).getLast (by simp) :: (b :: rest).dropLast)

/-- H after the entry e is removed: the multiset loses one e (R97); where e heads the reference array heap the
arrangement afterwards is that of R100. -/
def heapRemove (c : Config) (now : Word) (h : List Entry) (e : Entry) : List Entry :=
  match c.tie with
  | .free => h.erase e
  | .array => if h.head? = some e then arrayPop c now h else h.erase e

/-- The distinct entries of minimal signed distance from now (R94, R98). -/
def nearest (c : Config) (now : Word) (h : List Entry) : List Entry :=
  (h.filter (fun e => h.all (fun e' => decide (sdist c e.d now ≤ sdist c e'.d now)))).dedup

/-- The open election among several entries: the free value of Config, taken modulo their number (R99, log 4). -/
def freeElection (arrangement : Nat) (h : List Entry) (now : Word) (es : List Entry) : Option Entry :=
  es[Config.heapTie arrangement h now % es.length]?

/-- The election HEAP_TIE among several entries of minimal signed distance (R99): open, or the first place of the
reference array heap where that place holds one of them; outside the window premise it may not, and then R98 decides
and the election is open (R100). -/
def electTop (c : Config) (arrangement : Nat) (h : List Entry) (now : Word) (es : List Entry) : Option Entry :=
  match c.tie, h.head? with
  | .array, some a => if a ∈ es then some a else freeElection arrangement h now es
  | _, _ => freeElection arrangement h now es

/-- `heap_top(now)` with now = CNT: an entry of minimal signed distance, `none` for the empty heap (R98, R99). -/
def State.heapTop (s : State) : Option Entry :=
  match nearest s.cfg s.cnt s.heap with
  | [] => none
  | [e] => some e
  | e :: e' :: es => electTop s.cfg s.arrangement s.heap s.cnt (e :: e' :: es)

/-- `heap_full()` (R31). -/
def State.heapFull (s : State) : Bool := decide (s.heap.length = s.cfg.heapCap)

/-- `heap_push(e)` (R96). -/
def State.heapPush (s : State) (e : Entry) : State :=
  { s with heap := heapInsert s.cfg s.cnt s.heap e, arrangement := s.arrangement + 1 }

/-- The removal in `heap_pop(now)` of the entry that `heap_top(now)` designates (R97). -/
def State.heapPop (s : State) (e : Entry) : State :=
  { s with heap := heapRemove s.cfg s.cnt s.heap e, arrangement := s.arrangement + 1 }

/-- `H <- empty` (R104). -/
def State.heapClear (s : State) : State := { s with heap := [], arrangement := s.arrangement + 1 }

/-! ## `heap_service()` -/

/-- `if e.id != HEARTBEAT_ID: wake(e.id)` (R103). -/
def State.wakeEntry (s : State) (e : Entry) : Flow := if e.id = heartbeatId then .go s else s.wake e.id

/-- The popping loop of `heap_service()` (R103); the number bounds its turns, and each turn removes an entry. -/
def drain : Nat → State → Flow
  | 0, s => .go s
  | n + 1, s =>
    match s.heapTop with
    | none => .go s
    | some e => if elapsed s.cfg e.d s.cnt then ((s.heapPop e).wakeEntry e).andThen (drain n) else .go s

/-- The heartbeat entry placed at now (R101). -/
def State.heartbeatEntry (s : State) : Entry := Entry.mk (tAdd s.cfg s.cnt (heartbeatTicks s.cfg)) heartbeatId

/-- The heartbeat insertion: into an empty heap only (R101). -/
def State.insertHeartbeat (s : State) : State := if s.heap.isEmpty then s.heapPush s.heartbeatEntry else s

/-- until < room: the deadline d falls before the counter wraps (R102). -/
def beforeWrap (c : Config) (d now : Word) : Bool := decide ((tSub c d now).toNat < c.mod - now.toNat)

/-- The arming step: program CMP and enable the compare interrupt for the nearest deadline, or disable the interrupt
and keep CMP where the deadline lies beyond the wrap; CF is not touched (R102). -/
def State.arm (s : State) : State :=
  match s.heapTop with
  | none => s
  | some e => if beforeWrap s.cfg e.d s.cnt then { s with cmp := e.d, cie := true } else { s with cie := false }

/-- `heap_service()`: pop and wake every expired entry, insert the heartbeat into an empty heap, arm (R103). -/
def State.heapService (s : State) : Flow := (drain s.heap.length s).andThen (fun t => .go t.insertHeartbeat.arm)

/-! ## Slots and mailboxes -/

/-- The slot s; a slot out of range, which no operation asks for, reads as a slot at reset. DESIGN CHOICE (log 7). -/
def State.slotAt (s : State) (i : Nat) : Slot := s.slots.getD i (Slot.mk noTask Level.low)

/-- Mailbox m; one out of range, which no operation asks for, reads as a mailbox at reset. DESIGN CHOICE (log 7). -/
def State.mboxAt (s : State) (i : Nat) : Mailbox := s.mboxes.getD i (Mailbox.mk false 0#32 noTask)

/-- `WS[i] <- t` (R35). -/
def State.setWs (s : State) (i : Nat) (t : Byte) : State := { s with slots := s.slots.set i { s.slotAt i with ws := t } }

/-- `TARGET[i] <- v` (R36). -/
def State.setTarget (s : State) (i : Nat) (v : Level) : State :=
  { s with slots := s.slots.set i { s.slotAt i with target := v } }

/-- `MBI[i] <- v; MBF[i] <- 1` (R133). -/
def State.storeItem (s : State) (i : Nat) (v : Word) : State :=
  { s with mboxes := s.mboxes.set i { s.mboxAt i with mbi := v, mbf := true } }

/-- `MBF[i] <- 0`; MBI keeps its bits (R37, R134, log 9). -/
def State.takeItem (s : State) (i : Nat) : State := { s with mboxes := s.mboxes.set i { s.mboxAt i with mbf := false } }

/-- `MBW[i] <- t` (R38). -/
def State.setMbw (s : State) (i : Nat) (t : Byte) : State := { s with mboxes := s.mboxes.set i { s.mboxAt i with mbw := t } }

/-! ## Reset -/

/-- The `reset` input: every state element takes its reset value (R197). The model's own fields stay, but for the
arrangement number, which advances because H changes. -/
def State.resetInput (s : State) : State :=
  { State.init s.cfg with arrangement := s.arrangement + 1, rdata := s.rdata, agenda := s.agenda }

end Sys2Proof.Machine
end

