-- ==== Sys2Proof/Machine/Edge.lean ====
section
/-! DEFINITION. The edge synchroniser: EW_SET, EW_POLL, PIN(l, v), SVC_EDGE(l) (42_edge.md R122 to R128). -/

namespace Sys2Proof.Machine

/-- EW_SET (R122). -/
def execEwSet (slot : Byte) (lvl : Level) (s : State) : Host.Outcome State Fault Refusal :=
  s.when s.hostReady <|
    if slotInRange s.cfg slot then (s.setTarget slot.toNat lvl).done 0#32 0#32 else s.fail .errRange

/-- PIN[l] = TARGET[slot] for the slot's line l (R123). -/
def State.atTarget (s : State) (i : Nat) : Bool := s.pinAt (lineOfSlot s.cfg i) == (s.slotAt i).target

/-- EW_POLL: the level is compared with the target; if they differ the caller is registered (R123). -/
def execEwPoll (tid slot : Byte) (s : State) : Host.Outcome State Fault Refusal :=
  s.when s.hostReady <|
    if !(validTid s.cfg tid && slotInRange s.cfg slot) then s.fail .errRange
    else if s.atTarget slot.toNat then s.done (pollWord true false) 0#32
    else (s.setWs slot.toNat tid).done (pollWord false false) 0#32

/-- PIN(l, v) (R126). -/
def execPin (l : Nat) (v : Level) (s : State) : Host.Outcome State Fault Refusal :=
  s.when (s.pinReady l v)
    { s with pin := s.pin.set l v, pend := if edgeEnabled s.cfg l v then s.pend.set l true else s.pend }

/-- `if t != NO_TASK: wake(t)` (R127, R133). -/
def State.wakeWaiter (s : State) (t : Byte) : Flow := if t = noTask then .go s else s.wake t

/-- The slot's part of SVC_EDGE(l): the waiter is taken, the slot left at NO_TASK, and the waiter woken; a line without
a slot has none (R127, R128). -/
def State.edgeTake (s : State) (l : Nat) : Flow :=
  match slotOfLine s.cfg l with
  | none => .go s
  | some i => (s.setWs i noTask).wakeWaiter (s.slotAt i).ws

/-- SVC_EDGE(l) (R127). -/
def execSvcEdge (l : Nat) (s : State) : Host.Outcome State Fault Refusal :=
  s.when (s.svcEdgeReady l)
    ((({ s with pend := s.pend.set l false } : State).edgeTake l).finish (fun t => { t with sleep := false }))

end Sys2Proof.Machine
end

