-- ==== Sys2Proof/Machine/Executor.lean ====
section
/-! DEFINITION. The ready queue's host operations: EX_INIT, WAKE, WAKE_WK, WK_GET, EX_NEXT, EX_SLEEP
(44_executor.md R142 to R148). -/

namespace Sys2Proof.Machine

/-- The valid identities in order, 0 .. NTASK-1 (R142). -/
def taskIds (c : Config) : List Byte := (List.range c.ntask).map (BitVec.ofNat 8)

/-- EX_INIT: RQ is emptied and every task identity woken once, in order (R142). -/
def execExInit (s : State) : Host.Outcome State Fault Refusal :=
  s.when s.hostReady <|
    if s.exen then s.fail .errState
    else (wakeAll (taskIds s.cfg) { s with rq := [], exen := true }).finish (fun t => t.done 0#32 0#32)

/-- WAKE: the identity is not checked (R143). -/
def execWake (tid : Byte) (s : State) : Host.Outcome State Fault Refusal :=
  s.when s.hostReady ((s.wake tid).finish (fun t => t.done 0#32 0#32))

/-- WAKE_WK: an unknown waker is fatal before anything is enqueued (R144). -/
def execWakeWk (s : State) : Host.Outcome State Fault Refusal :=
  s.when s.hostReady <|
    if knownWaker s.cfg s.arg then (s.wake (wakerTid s.arg)).finish (fun t => t.done 0#32 0#32)
    else s.raiseFatal .unknownWaker s.arg

/-- WK_GET (R148). -/
def execWkGet (tid : Byte) (s : State) : Host.Outcome State Fault Refusal :=
  s.when s.hostReady <|
    if validTid s.cfg tid then s.done (wakerHandle tid) 0#32 else s.fail .errRange

/-- EX_NEXT: the head of RQ is taken and its range tested (R145). -/
def execExNext (s : State) : Host.Outcome State Fault Refusal :=
  s.when s.hostReady <|
    match s.rq with
    | [] => s.done (nextKindWord .empty) 0#32
    | t :: ts =>
      ({ s with rq := ts } : State).done (nextKindWord (if validTid s.cfg t then .task else .skip)) (t.zeroExtend 32)

/-- EX_SLEEP: SLEEP is set only when RQ is empty, in the same step (R146). -/
def execExSleep (s : State) : Host.Outcome State Fault Refusal :=
  s.when s.hostReady (({ s with sleep := s.sleep || s.rq.isEmpty } : State).done 0#32 0#32)

end Sys2Proof.Machine
end

