-- ==== Sys2Proof/Machine/Mailbox.lean ====
section
/-! DEFINITION. The event mailbox: MB_SEND, MB_RECV (43_mailbox.md R133, R134). -/

namespace Sys2Proof.Machine

/-- The signal of MB_SEND: the registered waker, if there is one, is woken and stays registered (R133). -/
def State.signal (s : State) (i : Nat) : Flow :=
  if (s.mboxAt i).mbw = noTask then .go s else s.wake (s.mboxAt i).mbw

/-- MB_SEND: the item is stored first, then the waker signalled (R133). -/
def execMbSend (mbox : Byte) (s : State) : Host.Outcome State Fault Refusal :=
  s.when s.hostReady <|
    if mboxInRange s.cfg mbox then
      ((s.storeItem mbox.toNat s.arg).signal mbox.toNat).finish (fun t => t.done 0#32 0#32)
    else s.fail .errRange

/-- MB_RECV once decode and range have passed: phase Init registers and never takes, phase Wait takes an item that is
present (R134). -/
def mbRecvBody (tid mbox : Byte) (ph : Phase) (s : State) : State :=
  match ph with
  | .init => (s.setMbw mbox.toNat tid).done (pollWord false true) 0#32
  | .wait =>
    if (s.mboxAt mbox.toNat).mbf then (s.takeItem mbox.toNat).done (pollWord true true) (s.mboxAt mbox.toNat).mbi
    else s.done (pollWord false true) 0#32

/-- MB_RECV (R134). -/
def execMbRecv (tid mbox : Byte) (ph : Phase) (s : State) : Host.Outcome State Fault Refusal :=
  s.when s.hostReady <|
    if !(validTid s.cfg tid && mboxInRange s.cfg mbox) then s.fail .errRange else mbRecvBody tid mbox ph s

end Sys2Proof.Machine
end

