-- ==== Sys2Proof/Machine/Status.lean ====
section
/-! DEFINITION. The status read ST_GET (45_status.md R157, R158). -/

namespace Sys2Proof.Machine

/-- What a selector of ST_GET answers: a status other than OK, or the two result words (R157). -/
inductive StReply where
  | error (code : StatusCode)
  | words (r0 r1 : Word)
  deriving DecidableEq, Repr

/-- The selectors whose sub-index must be 0 (R157). -/
def subZero (sub : Byte) (reply : StReply) : StReply := if sub = 0#8 then reply else .error .errRange

/-- Selector 3, the top of H (R157). -/
def State.topReply (s : State) : StReply :=
  match s.heapTop with
  | none => .error .errState
  | some e => .words e.d (e.id.zeroExtend 32)

/-- Selector 6, a wake slot (R157). -/
def State.slotReply (s : State) (sub : Byte) : StReply :=
  if slotInRange s.cfg sub then
    .words ((s.slotAt sub.toNat).ws.zeroExtend 32) (BitVec.ofNat 32 (s.slotAt sub.toNat).target.toBool.toNat)
  else .error .errRange

/-- Selector 7, a mailbox; an absent item shows 0 (R157, R158). -/
def State.mboxReply (s : State) (sub : Byte) : StReply :=
  if mboxInRange s.cfg sub then
    .words (mailboxWord (s.mboxAt sub.toNat)) (if (s.mboxAt sub.toNat).mbf then (s.mboxAt sub.toNat).mbi else 0#32)
  else .error .errRange

/-- The case split of ST_GET (R157). -/
def State.stReply (s : State) (sel sub : Byte) : StReply :=
  match sel.toNat with
  | 0 => subZero sub (.words s.cnt s.cmp)
  | 1 => subZero sub (.words s.flagsWord 0#32)
  | 2 => subZero sub (.words (BitVec.ofNat 32 s.heap.length) 0#32)
  | 3 => subZero sub s.topReply
  | 4 => subZero sub (.words (BitVec.ofNat 32 s.rq.length) 0#32)
  | 5 => subZero sub (.words s.pinWord s.pendWord)
  | 6 => s.slotReply sub
  | 7 => s.mboxReply sub
  | _ => .error .errRange

/-- The end of ST_GET: the reply goes to STATUS, RES0 and RES1 (R157). -/
def State.reply (s : State) : StReply → State
  | .error code => s.fail code
  | .words r0 r1 => s.done r0 r1

/-- ST_GET (R157). -/
def execStGet (sel sub : Byte) (s : State) : Host.Outcome State Fault Refusal :=
  s.when s.hostReady (s.reply (s.stReply sel sub))

end Sys2Proof.Machine
end

