-- ==== Sys2Proof/Machine/Ticker.lean ====
section
/-! DEFINITION. The tick unit and the deadline scheduler: TK_INIT, TK_NOW, TK_START, TK_POLL, TICK, SVC_CMP, SVC_WRAP
(41_ticker.md R104 to R111). -/

namespace Sys2Proof.Machine

/-- The state in which TK_INIT runs `heap_service()`: H empty, CF and WF 0, TKEN 1 (R104). -/
def State.tickerCleared (s : State) : State := { s.heapClear with cf := false, wf := false, tken := true }

/-- TK_INIT (R104). -/
def execTkInit (s : State) : Host.Outcome State Fault Refusal :=
  s.when s.hostReady <|
    if s.tken then s.fail .errState
    else s.tickerCleared.heapService.finish (fun t => t.done 0#32 0#32)

/-- TK_NOW (R105). -/
def execTkNow (s : State) : Host.Outcome State Fault Refusal :=
  s.when s.hostReady (s.done s.cnt 0#32)

/-- TK_START: the end time is CNT +t ARG; nothing is registered (R106). -/
def execTkStart (s : State) : Host.Outcome State Fault Refusal :=
  s.when s.hostReady <|
    if durationInRange s.cfg s.arg then s.done (tAdd s.cfg s.cnt s.arg) 0#32 else s.fail .errRange

/-- TK_POLL once decode, range and state tests have passed (R107). In phase Init the deadline is registered, or a full
heap is fatal before the push; in phase Wait CNT is compared. -/
def tkPollBody (tid : Byte) (ph : Phase) (s : State) : State :=
  match ph with
  | .init =>
    if s.heapFull then s.raiseFatal .heapFull (tid.zeroExtend 32)
    else (s.heapPush (Entry.mk (instantOf s.cfg s.arg) tid)).heapService.finish
      (fun t => t.done (pollWord false true) 0#32)
  | .wait => s.done (pollWord (elapsed s.cfg (instantOf s.cfg s.arg) s.cnt) true) 0#32

/-- TK_POLL (R107); range is tested before state (R79). -/
def execTkPoll (tid : Byte) (ph : Phase) (s : State) : Host.Outcome State Fault Refusal :=
  s.when s.hostReady <|
    if !(validTid s.cfg tid && endTimeInRange s.cfg s.arg) then s.fail .errRange
    else if !s.tken then s.fail .errState
    else tkPollBody tid ph s

/-- The counter after one tick (R109). -/
def State.nextCnt (s : State) : Word := tAdd s.cfg s.cnt 1#32

/-- TICK (R109). -/
def execTick (s : State) : Host.Outcome State Fault Refusal :=
  s.when s.tickReady { s with cnt := s.nextCnt, cf := cfAfterTick s s.nextCnt, wf := wfAfterTick s s.nextCnt }

/-- SVC_CMP (R110). -/
def execSvcCmp (s : State) : Host.Outcome State Fault Refusal :=
  s.when s.svcCmpReady (({ s with cf := false } : State).heapService.finish (fun t => { t with sleep := false }))

/-- SVC_WRAP (R111). -/
def execSvcWrap (s : State) : Host.Outcome State Fault Refusal :=
  s.when s.svcWrapReady (({ s with wf := false } : State).heapService.finish (fun t => { t with sleep := false }))

end Sys2Proof.Machine
end

