-- ==== Sys2Proof/Machine/Dispatch.lean ====
section
/-! DEFINITION. One arm for each row of spec/opcode_table.json, in the table's order. -/

namespace Sys2Proof.Machine

def exec (i : Instr) (s : State) : Host.Outcome State Fault Refusal :=
  match i with
  | .tkInit => Sys2Proof.Machine.execTkInit s
  | .tkNow => Sys2Proof.Machine.execTkNow s
  | .tkStart => Sys2Proof.Machine.execTkStart s
  | .tkPoll tid ph => Sys2Proof.Machine.execTkPoll tid ph s
  | .ewSet slot lvl => Sys2Proof.Machine.execEwSet slot lvl s
  | .ewPoll tid slot => Sys2Proof.Machine.execEwPoll tid slot s
  | .exInit => Sys2Proof.Machine.execExInit s
  | .wake tid => Sys2Proof.Machine.execWake tid s
  | .wakeWk => Sys2Proof.Machine.execWakeWk s
  | .wkGet tid => Sys2Proof.Machine.execWkGet tid s
  | .exNext => Sys2Proof.Machine.execExNext s
  | .exSleep => Sys2Proof.Machine.execExSleep s
  | .mbSend mbox => Sys2Proof.Machine.execMbSend mbox s
  | .mbRecv tid mbox ph => Sys2Proof.Machine.execMbRecv tid mbox ph s
  | .stGet sel sub => Sys2Proof.Machine.execStGet sel sub s
  | .svcCmp => Sys2Proof.Machine.execSvcCmp s
  | .svcWrap => Sys2Proof.Machine.execSvcWrap s
  | .svcEdge line => Sys2Proof.Machine.execSvcEdge line s
  | .tick => Sys2Proof.Machine.execTick s
  | .pin line v => Sys2Proof.Machine.execPin line v s

end Sys2Proof.Machine
end

