-- ==== Sys2Proof/Machine/Port.lean ====
section
/-! DEFINITION. The command port: the register map, `RegRead` and `RegWrite`, the access rules, the fetch of a command
word, and what each event of the agenda does (20_memory.md R50 to R57, 30_encoding.md R79). -/

namespace Sys2Proof.Machine

/-- The seven port registers (R51). -/
inductive PortReg where
  | cmd
  | arg
  | res0
  | res1
  | status
  | fcause
  | finfo
  deriving DecidableEq, Repr

/-- The register at a word offset, `none` outside the block (R51). -/
def portRegAt (off : Nat) : Option PortReg :=
  match off with
  | 0x00 => some .cmd
  | 0x04 => some .arg
  | 0x08 => some .res0
  | 0x0C => some .res1
  | 0x10 => some .status
  | 0x14 => some .fcause
  | 0x18 => some .finfo
  | _ => none

/-- The value of a port register (R39 to R43, R51). -/
def State.portReg (s : State) : PortReg → Word
  | .cmd => s.cmd
  | .arg => s.arg
  | .res0 => s.res0
  | .res1 => s.res1
  | .status => s.status
  | .fcause => s.fcause
  | .finfo => s.finfo

/-- An access goes to a register only as an aligned word inside the block; any other is refused by name (R51, R55). -/
def portAccess (off : Nat) (width : AccessWidth) : Except Refusal PortReg :=
  match width with
  | .byte => .error (.narrowAccess off)
  | .half => .error (.narrowAccess off)
  | .word =>
    if off % 4 ≠ 0 then .error (.unalignedAccess off)
    else
      match portRegAt off with
      | none => .error (.outsideBlock off)
      | some r => .ok r

/-- A write of a word to CMD: the word is stored, decoded, and the operation performed; a word that is no operation ends
with ERR_ILLEGAL (R39, R73, R74, R79). -/
def State.issue (s : State) (w : Word) : Host.Outcome State Fault Refusal :=
  match decode w with
  | .ok i => exec i { s with cmd := w }
  | .error _ => .next (({ s with cmd := w } : State).fail .errIllegal)

/-- A word written to a port register while HOST may step: CMD acts, ARG stores, the others ignore it (R51, R56). -/
def State.writeReg (s : State) (r : PortReg) (v : Word) : Host.Outcome State Fault Refusal :=
  match r with
  | .cmd => s.issue v
  | .arg => .next { s with arg := v }
  | .res0 => .next s
  | .res1 => .next s
  | .status => .next s
  | .fcause => .next s
  | .finfo => .next s

/-- HOST is stopped by SLEEP: it reads no register and issues no operation (R146). After the halt the port can still be
read by whatever reaches it (R186). DEDUCED (log 8). -/
def State.hostAsleep (s : State) : Bool := s.sleep && !s.fatal

/-- `RegWrite(off, v)` (R51, R55). While HOST sleeps it has no such step; after the halt the state is frozen and the
write ignored (R79 (0), R186). -/
def hostWrite (off : Nat) (width : AccessWidth) (v : Word) (s : State) : Host.Outcome State Fault Refusal :=
  if s.hostAsleep then .next s
  else
    match portAccess off width with
    | .error e => .refused e
    | .ok r => if s.fatal then .next s else s.writeReg r v

/-- `RegRead(off)`: the register's value is returned, in the model in rdata, and nothing else changes (R51, R55, R56). -/
def hostRead (off : Nat) (width : AccessWidth) (s : State) : Host.Outcome State Fault Refusal :=
  if s.hostAsleep then .next s
  else
    match portAccess off width with
    | .error e => .refused e
    | .ok r => .next { s with rdata := s.portReg r }

/-- What an event of the agenda does: a port access of HOST, a service or environment step, or reset (R3, R65, R81). -/
def perform (e : Event) (s : State) : Host.Outcome State Fault Refusal :=
  match e with
  | .write off width v => hostWrite off width v s
  | .read off width => hostRead off width s
  | .tick => exec .tick s
  | .pin l v => exec (.pin l v) s
  | .svcCmp => exec .svcCmp s
  | .svcWrap => exec .svcWrap s
  | .svcEdge l => exec (.svcEdge l) s
  | .reset => .next s.resetInput

/-- The event by which HOST issues a command word (R57). -/
def cmdWrite (w : Word) : Event := .write 0x00 .word w

/-- The next event of the agenda, and the state without it. With an empty agenda nobody steps: the block waits
(70_reset_and_hazards.md R198). -/
def nextEvent (s : State) : Option (Event × State) :=
  match s.agenda with
  | [] => none
  | e :: rest => some (e, { s with agenda := rest })

end Sys2Proof.Machine
end

