-- ==== Sys2Proof/Machine/Step.lean ====
section
/-! DEFINITION. One step of the machine: the agent at the head of the agenda moves (60_exceptions.md R182). -/

namespace Sys2Proof.Machine

/-- One step: the first event of the agenda is performed on the state without it; with no event the block waits. -/
def step (s : State) : Host.Outcome State Fault Refusal :=
  match nextEvent s with
  | none => .next s
  | some (e, t) => perform e t

/-- s with HOST about to write the given command word to CMD, so that the very next step fetches and runs it. The 32-bit
operand, where the operation takes one, is whatever ARG holds in s. -/
def State.withFetchWord (s : State) (nbits w : Nat) : State :=
  { s with agenda := cmdWrite (tableWord nbits w) :: s.agenda }

end Sys2Proof.Machine
end

