-- ==== Sys2Proof/Machine/Clients.lean ====
section
/-! DEFINITION. The host side of the reference design, as a test bench beside the block: the wait record, the Button, the
LED, the executor loop and the start-up sequence, each a sequence of host operations (10_state.md R44, 40_poll.md R83 to
R89, 44_executor.md R149, 46_clients.md R161 to R168, 70_reset_and_hazards.md R205). None of it is state of the block
(log 15). -/

namespace Sys2Proof.Machine

/-! ## Host operations -/

/-- The block after one access of HOST; a refused access leaves it as it is (20_memory.md R55). -/
def afterAccess (access : State → Host.Outcome State Fault Refusal) (s : State) : State :=
  match access s with
  | .next t => t
  | .fault _ => s
  | .refused _ => s

/-- HOST performs a host operation by the protocol of R57: it writes the operand to ARG, if there is one, and then the
command word to CMD. Where HOST has no step the block stays as it is (30_encoding.md R79 (0)). -/
def hostOp (i : Instr) (arg : Option Word) (s : State) : State :=
  let s1 := arg.elim s (fun a => afterAccess (hostWrite 0x04 .word a) s)
  (encode i).elim s1 (fun w => afterAccess (hostWrite 0x00 .word w) s1)

/-- READY, bit 0 of the poll word in RES0 (R71, R86). -/
def State.ready (s : State) : Bool := s.res0.getLsbD 0

/-- PHN, bit 1 of the poll word in RES0 (R71, R86). -/
def State.phn (s : State) : Phase := Phase.ofBool (s.res0.getLsbD 1)

/-- A deadline-wait record (R44). -/
structure WaitRecord where
  ph : Phase
  endTime : Word
  deriving DecidableEq, Repr

/-- A new deadline-wait record for a duration: TK_START gives its end time (R78, R106). -/
def startWait (duration : Word) (s : State) : WaitRecord × State :=
  let t := hostOp .tkStart (some duration) s
  (WaitRecord.mk .init t.res0, t)

/-- The poll of a deadline-wait: the record takes the phase the block returns (R78, R89). A poll that halts returns
nothing (R85). -/
def pollWait (tid : Byte) (r : WaitRecord) (s : State) : WaitRecord × State :=
  let t := hostOp (.tkPoll tid r.ph) (some r.endTime) s
  (if t.fatal then r else WaitRecord.mk t.phn r.endTime, t)

/-! ## The Button (R163, R164) -/

/-- The Button's states (R163). -/
inductive ButtonState where
  | waitForPress
  | debounce
  | waitForRelease
  deriving DecidableEq, Repr

/-- The Button's host state (R164). -/
structure Button where
  state : ButtonState
  rcd : WaitRecord
  deriving DecidableEq, Repr

/-- The Button at task construction; its record is not in use before Debounce (R164). -/
def Button.start : Button := Button.mk .waitForPress (WaitRecord.mk .init 0#32)

/-- The event item `Pressed` (R161). -/
def pressed : Word := 0x00000001#32

/-- Where a turn of a task's loop ends: the poll returns `Pending`, or goes on with the next state (R162). -/
inductive Turn (α : Type) where
  | pending (task : α) (s : State)
  | again (task : α) (s : State)
  deriving DecidableEq, Repr

/-- One turn of the loop of `button_poll` (R164). HOST has no step after a halt (R186), so a turn that meets one ends the
poll. -/
def Button.turn (tid : Byte) (b : Button) (s : State) : Turn Button :=
  match b.state with
  | .waitForPress =>
    let s1 := hostOp (.ewPoll tid 0#8) none s
    if s1.ready && !s1.fatal then
      let s2 := hostOp (.mbSend 0#8) (some pressed) s1
      if s2.fatal then .pending b s2
      else
        let (r, s3) := startWait 100#32 s2
        .again (Button.mk .debounce r) s3
    else .pending b s1
  | .debounce =>
    let (r, s1) := pollWait tid b.rcd s
    if s1.ready && !s1.fatal then .again (Button.mk .waitForRelease r) (hostOp (.ewSet 0#8 .high) none s1)
    else .pending (Button.mk .debounce r) s1
  | .waitForRelease =>
    let s1 := hostOp (.ewPoll tid 0#8) none s
    if s1.ready && !s1.fatal then .again (Button.mk .waitForPress b.rcd) (hostOp (.ewSet 0#8 .low) none s1)
    else .pending b s1

/-- `button_poll`: turns until one returns `Pending`; the number bounds them, and four are enough, because a poll in phase
Init never returns `Ready` and one level cannot be both targets (R162, R164). -/
def Button.loop (tid : Byte) : Nat → Button → State → Button × State
  | 0, b, s => (b, s)
  | n + 1, b, s =>
    match Button.turn tid b s with
    | .pending b' t => (b', t)
    | .again b' t => Button.loop tid n b' t

/-- `button_poll` (R164). DESIGN CHOICE (log 16): its host operations follow one another with no other agent's step
between. -/
def Button.poll (tid : Byte) (b : Button) (s : State) : Button × State := Button.loop tid 4 b s

/-! ## The LED (R166 to R168) -/

/-- The LED's states (R166). -/
inductive LedState where
  | toggle
  | wait
  deriving DecidableEq, Repr

/-- The LED's host state; `led` is the level of the host's output pin (R161, R168). -/
structure Led where
  state : LedState
  period : Nat
  rx : Phase
  rcd : WaitRecord
  led : Bool
  deriving DecidableEq, Repr

/-- The LED at task construction (R168). The level of its output pin then is left open (91_not_in_source.md N25), so it is
an argument. -/
def Led.start (level : Bool) : Led := Led.mk .toggle 500 .init (WaitRecord.mk .init 0#32) level

/-- `next_period` (R167). -/
def nextPeriod (p : Nat) : Nat := if p < 100 then 500 else p - p / 2

/-- The receive at the head of `led_poll`: a `Pressed` event toggles, halves and restarts the cycle; the receive of any
other item is renewed likewise (R168). -/
def Led.receive (tid : Byte) (l : Led) (s : State) : Led × State :=
  let s1 := hostOp (.mbRecv tid 0#8 l.rx) none s
  if s1.fatal then (l, s1)
  else if s1.ready then
    let s2 := hostOp (.mbRecv tid 0#8 .init) none s1
    if s1.res1 = pressed then
      let (r, s3) := startWait (BitVec.ofNat 32 (nextPeriod l.period)) s2
      (Led.mk .wait (nextPeriod l.period) s2.phn r (!l.led), s3)
    else ({ l with rx := s2.phn }, s2)
  else ({ l with rx := s1.phn }, s1)

/-- One turn of the loop of `led_poll` (R168). -/
def Led.turn (tid : Byte) (l : Led) (s : State) : Turn Led :=
  match l.state with
  | .toggle =>
    let (r, s1) := startWait (BitVec.ofNat 32 l.period) s
    .again { l with state := .wait, rcd := r, led := !l.led } s1
  | .wait =>
    let (r, s1) := pollWait tid l.rcd s
    if s1.ready && !s1.fatal then .again { l with state := .toggle, rcd := r } s1
    else .pending { l with rcd := r } s1

/-- The loop of `led_poll`: turns until one returns `Pending`; the number bounds them, and three are enough, because a poll
in phase Init never returns `Ready` (R162, R168). -/
def Led.loop (tid : Byte) : Nat → Led → State → Led × State
  | 0, l, s => (l, s)
  | n + 1, l, s =>
    match Led.turn tid l s with
    | .pending l' t => (l', t)
    | .again l' t => Led.loop tid n l' t

/-- `led_poll` (R168). DESIGN CHOICE (log 16): its host operations follow one another with no other agent's step
between. -/
def Led.poll (tid : Byte) (l : Led) (s : State) : Led × State :=
  let (l', t) := Led.receive tid l s
  if t.fatal then (l', t) else Led.loop tid 4 l' t

/-! ## The executor loop (R149) and the start-up (R205) -/

/-- The block and the two tasks of the reference design: task 0 is the Button, task 1 the LED (R161). -/
structure Bench where
  block : State
  button : Button
  led : Led
  deriving DecidableEq, Repr

/-- `poll task` of the executor loop: the task issues its operations with its own identity (R87, R149). -/
def Bench.pollTask (b : Bench) (tid : Byte) : Bench :=
  if tid = 0#8 then
    let (u, t) := Button.poll tid b.button b.block
    { b with block := t, button := u }
  else if tid = 1#8 then
    let (u, t) := Led.poll tid b.led b.block
    { b with block := t, led := u }
  else b

/-- One turn of the executor loop: EX_NEXT, then the poll of the task, nothing on SKIP, EX_SLEEP on EMPTY. A HOST that
sleeps or has halted takes no turn (R146, R149, R186). DESIGN CHOICE (log 16): where 60_exceptions.md R182 leaves the
interleaving open, no other agent's step comes between the host operations of one turn; `Bench.other` comes between
turns. -/
def Bench.turn (b : Bench) : Bench :=
  if b.block.hostReady then
    let s1 := hostOp .exNext none b.block
    if s1.res0 = nextKindWord .task then Bench.pollTask { b with block := s1 } (s1.res1.extractLsb' 0 8)
    else if s1.res0 = nextKindWord .skip then { b with block := s1 }
    else { b with block := hostOp .exSleep none s1 }
  else b

/-- n turns of the executor loop (R149, R218). -/
def Bench.turns : Nat → Bench → Bench
  | 0, b => b
  | n + 1, b => Bench.turns n b.turn

/-- A service or environment step of the block between two turns of the host program (R3, log 16). -/
def Bench.other (b : Bench) (i : Instr) : Bench := { b with block := afterAccess (exec i) b.block }

/-- The reference start-up: TK_INIT, EW_SET of slot 0 to Low, EX_INIT (R205), with the output pin at a level that the spec
leaves open (91_not_in_source.md N25). DESIGN CHOICE (log 16): no other agent's step comes between the three. -/
def Bench.boot (level : Bool) (s : State) : Bench :=
  Bench.mk (hostOp .exInit none (hostOp (.ewSet 0#8 .low) none (hostOp .tkInit none s))) Button.start (Led.start level)

end Sys2Proof.Machine
end

