-- ==== Sys2Proof/WellFormed.lean ====
section
/-! DEFINITION. Which instructions and which parameter sets are well formed: the ranges of 00_scope.md R6 to R12. -/

namespace Sys2Proof

/-- NLINE <= 32 (00_scope.md R9): no line number of any block is 32 or more. -/
def lineOk (line : Nat) : Bool := decide (line < 32)

/-- An instruction is well formed when its line number, if it has one, is a line number of some block. The operands of a
command word are fields of 8 bits or 1 bit and any value of them can be encoded; whether a value is in range is tested
when the operation is performed (30_encoding.md R79). -/
def Instr.wf : Instr → Bool
  | .svcEdge l => lineOk l
  | .pin l _ => lineOk l
  | .tkInit | .tkNow | .tkStart | .tkPoll _ _ | .ewSet _ _ | .ewPoll _ _ | .exInit | .wake _ | .wakeWk | .wkGet _
  | .exNext | .exSleep | .mbSend _ | .mbRecv _ _ _ | .stGet _ _ | .svcCmp | .svcWrap | .tick => true

/-- 8 <= TICK_W <= 32 (00_scope.md R6). -/
def Config.tickWOk (c : Config) : Bool := decide (8 ≤ c.tickW) && decide (c.tickW ≤ 32)

/-- 1 <= RQ_CAP <= 255 and 1 <= HEAP_CAP <= 255 (00_scope.md R7). -/
def Config.capsOk (c : Config) : Bool :=
  decide (1 ≤ c.rqCap) && decide (c.rqCap ≤ 255) && decide (1 ≤ c.heapCap) && decide (c.heapCap ≤ 255)

/-- 1 <= NTASK <= 254 (00_scope.md R8). -/
def Config.ntaskOk (c : Config) : Bool := decide (1 ≤ c.ntask) && decide (c.ntask ≤ 254)

/-- 1 <= NLINE <= 32, with one EDGE_RISE bit, one EDGE_FALL bit and one PIN_RESET level for each line
(00_scope.md R9, R12). -/
def Config.linesOk (c : Config) : Bool :=
  decide (1 ≤ c.nline) && decide (c.nline ≤ 32) && decide (c.edgeRise.length = c.nline) &&
    decide (c.edgeFall.length = c.nline) && decide (c.pinReset.length = c.nline)

/-- 1 <= NSLOT <= NLINE, and LINE_OF_SLOT gives distinct line numbers below NLINE (00_scope.md R9). -/
def Config.slotsOk (c : Config) : Bool :=
  decide (1 ≤ c.nslot) && decide (c.nslot ≤ c.nline) && c.lineOfSlot.all (fun l => decide (l < c.nline)) &&
    decide c.lineOfSlot.Nodup

/-- 1 <= NMBOX <= 256 (00_scope.md R10). -/
def Config.nmboxOk (c : Config) : Bool := decide (1 ≤ c.nmbox) && decide (c.nmbox ≤ 256)

/-- 1 <= HEARTBEAT_TICKS <= MAX_DUR (00_scope.md R11). -/
def Config.heartbeatOk (c : Config) : Bool := decide (1 ≤ c.heartbeat) && decide (c.heartbeat ≤ c.maxDur)

/-- CNT_RESET is a value of the counter (00_scope.md R12, 10_state.md R17). -/
def Config.cntResetOk (c : Config) : Bool := decide (c.cntReset < c.mod)

/-- A parameter set the spec admits (00_scope.md R6 to R12). NTASK <= RQ_CAP is not asked: a block without it halts at
EX_INIT (44_executor.md R142). -/
def Config.wf (c : Config) : Bool :=
  c.tickWOk && c.capsOk && c.ntaskOk && c.linesOk && c.slotsOk && c.nmboxOk && c.heartbeatOk && c.cntResetOk

end Sys2Proof
end

