-- ==== Sys2Proof/Safety.lean ====
section
/-! DEFINITION. What counts as a safe state and a safe run: the invariants of the block, the coverage of the nearest
deadline, the window premise for one tick, and the service latency premise (10_state.md R29, R30, 41_ticker.md R115,
70_reset_and_hazards.md R214). -/

namespace Sys2Proof.Machine

/-- The per-line, per-slot and per-mailbox state has one element for each line, slot and mailbox (10_state.md R16). -/
abbrev State.ShapeOk (s : State) : Prop :=
  s.pin.length = s.cfg.nline ∧ s.pend.length = s.cfg.nline ∧ s.slots.length = s.cfg.nslot ∧
    s.mboxes.length = s.cfg.nmbox

/-- CNT and CMP are tick values; H and RQ are within their capacities (10_state.md R17, R18, R23, R28). -/
abbrev State.BoundsOk (s : State) : Prop :=
  s.cnt.toNat < s.cfg.mod ∧ s.cmp.toNat < s.cfg.mod ∧ s.heap.length ≤ s.cfg.heapCap ∧ s.rq.length ≤ s.cfg.rqCap

/-- STATUS holds a code 0 to 3 and FCAUSE a cause 0 to 3 (10_state.md R42, R43). -/
abbrev State.CodesOk (s : State) : Prop := s.status.toNat ≤ 3 ∧ s.fcause.toNat ≤ 3

/-- An entry of H is a tick value with a valid identity or HEARTBEAT_ID (10_state.md R27). -/
abbrev entryOk (c : Config) (e : Entry) : Prop := e.d.toNat < c.mod ∧ (validTid c e.id = true ∨ e.id = heartbeatId)

/-- Every entry of H is one (10_state.md R27). -/
abbrev State.EntriesOk (s : State) : Prop := ∀ e ∈ s.heap, entryOk s.cfg e

/-- The number of heartbeat entries in H. -/
def State.heartbeats (s : State) : Nat := s.heap.countP (fun e => e.id == heartbeatId)

/-- A wake slot or a mailbox waker slot holds a valid identity or NO_TASK (10_state.md R35, R38). -/
abbrev waiterOk (c : Config) (t : Byte) : Prop := validTid c t = true ∨ t = noTask

/-- Every wake slot and every mailbox waker slot does (10_state.md R35, R38). -/
abbrev State.WaitersOk (s : State) : Prop :=
  (∀ x ∈ s.slots, waiterOk s.cfg x.ws) ∧ (∀ x ∈ s.mboxes, waiterOk s.cfg x.mbw)

/-- Outside the halt H is not empty once TK_INIT has run; before TK_INIT it is empty and the compare interrupt is
disabled (10_state.md R19, R28, R29 (b)). -/
abbrev State.HeapLive (s : State) : Prop :=
  (s.tken = true → s.fatal = false → s.heap ≠ []) ∧ (s.tken = false → s.heap = [] ∧ s.cie = false)

/-- Outside the halt an enabled compare interrupt has fired or has its match still ahead in this wrap cycle
(41_ticker.md R102, R115). -/
abbrev State.CompareLive (s : State) : Prop :=
  s.fatal = false → s.cie = true → s.cf = true ∨ s.cnt.toNat < s.cmp.toNat

/-- Outside the halt HOST sleeps only with RQ empty (20_memory.md R60, 44_executor.md R146). -/
abbrev State.SleepOk (s : State) : Prop := s.fatal = false → s.sleep = true → s.rq = []

/-- The invariant of the block. -/
abbrev State.Inv (s : State) : Prop :=
  s.cfg.wf = true ∧ s.ShapeOk ∧ s.BoundsOk ∧ s.CodesOk ∧ s.EntriesOk ∧ s.heartbeats ≤ 1 ∧ s.WaitersOk ∧
    s.HeapLive ∧ s.CompareLive ∧ s.SleepOk

/-- Some timer event that will re-examine H is due or covers the nearest deadline: a wrap or an enabled match is
pending, or the compare interrupt is enabled for the top, which lies ahead in this wrap cycle, or it is disabled and the
top lies at or beyond the next wrap (41_ticker.md R115, 90_conflicts.md C3). -/
abbrev State.Covered (s : State) (e : Entry) : Prop :=
  s.wf = true ∨ (s.cie = true ∧ s.cf = true) ∨ (s.cie = true ∧ s.cmp = e.d ∧ s.cnt.toNat < e.d.toNat) ∨
    (s.cie = false ∧ e.d.toNat < s.cnt.toNat)

/-- The nearest deadline is covered, outside the halt and once TK_INIT has run (41_ticker.md R115). -/
def State.Armed (s : State) : Prop :=
  s.tken = true → s.fatal = false → ∃ e, s.heapTop = some e ∧ s.Covered e

/-- No entry reads as HALF ticks overdue, so that no signed distance jumps when CNT advances. The window premise of R30
admits that value; where the premise holds before a TICK and after it, this holds before it
(log 17). -/
abbrev State.InWindow (s : State) : Prop := ∀ e ∈ s.heap, -(s.cfg.half : Int) < sdist s.cfg e.d s.cnt

/-- The block beside the unbounded time of 10_state.md R30, which the block does not hold: T, the number of TICK steps since
reset, and Td, the true deadline of each entry of H. -/
structure Timed where
  block : State
  time : Nat
  due : Entry → Int

/-- Right after reset no TICK has been taken and H is empty (R30, R49). -/
def Timed.start (c : Config) : Timed := Timed.mk (State.init c) 0 (fun _ => 0)

/-- The entry that TK_POLL in phase Init pushes, if that is the instruction (41_ticker.md R107). -/
def pushedBy (i : Instr) (s : State) : Option Entry :=
  match i with
  | .tkPoll tid .init => some (Entry.mk (instantOf s.cfg s.arg) tid)
  | .tkPoll _ .wait | .tkInit | .tkNow | .tkStart | .ewSet _ _ | .ewPoll _ _ | .exInit | .wake _ | .wakeWk | .wkGet _
  | .exNext | .exSleep | .mbSend _ | .mbRecv _ _ _ | .stGet _ _ | .svcCmp | .svcWrap | .svcEdge _ | .tick | .pin _ _ => none

/-- The time after an instruction that took the block to t. A TICK that is taken counts one. The entry of a deadline-wait
has the true deadline td, T0 + dur of the TK_START that made the wait; a heartbeat is due HEARTBEAT_TICKS after its
insertion; every other entry keeps its own (R30, 41_ticker.md R101). DEDUCED (log 17): R30 names no true deadline for the
heartbeat. -/
def Timed.next (x : Timed) (i : Instr) (td : Int) (t : State) : Timed where
  block := t
  time := if i = .tick && x.block.tickReady then x.time + 1 else x.time
  due := fun e =>
    if pushedBy i x.block = some e then td
    else if e ∈ x.block.heap then x.due e
    else (x.time : Int) + (x.block.cfg.heartbeat : Int)

/-- A true deadline for a deadline value d at time T: d is its value modulo MOD, and it is at most HALF ticks overdue and
less than HALF ticks ahead (R30). -/
abbrev dueInWindow (c : Config) (time : Nat) (d : Word) (td : Int) : Prop :=
  (d.toNat : Int) = ((c.cntReset : Int) + td) % (c.mod : Int) ∧ -(c.half : Int) ≤ td - (time : Int) ∧
    td - (time : Int) ≤ (c.half : Int) - 1

/-- The window premise: CNT = (CNT_RESET + T) mod MOD, and for every entry of H, -HALF <= Td - T <= HALF - 1 (R30). -/
abbrev Timed.WindowPremise (x : Timed) : Prop :=
  x.block.cnt.toNat = (x.block.cfg.cntReset + x.time) % x.block.cfg.mod ∧
    ∀ e ∈ x.block.heap, dueInWindow x.block.cfg x.time e.d (x.due e)

/-- A run of instructions, in order; `none` if one of them does not end in a next state. -/
def execAll : List Instr → State → Option State
  | [], s => some s
  | i :: is, s =>
    match exec i s with
    | .next t => execAll is t
    | .fault _ => none
    | .refused _ => none

/-- n TICK steps (30_encoding.md R77). -/
def ticks (n : Nat) (s : State) : Option State := execAll (List.replicate n .tick) s

/-- A run of events performed at the block's edge. -/
def performAll : List Event → State → Option State
  | [], s => some s
  | e :: es, s =>
    match perform e s with
    | .next t => performAll es t
    | .fault _ => none
    | .refused _ => none

/-- The service i, enabled when `ready` says so, is taken before lat further TICK steps occur: fewer than lat pass while it
stays enabled. left is lat less the ticks that have passed so (70_reset_and_hazards.md R214). DESIGN CHOICE (log 13): how
the premise is put over a finite run. -/
def servedWithin (i : Instr) (ready : State → Bool) (lat : Nat) : Nat → List Instr → State → Prop
  | _, [], _ => True
  | left, j :: js, s =>
    match exec j s with
    | .next t =>
      if ready s && j != i then
        if j = .tick then 1 < left ∧ servedWithin i ready lat (left - 1) js t else servedWithin i ready lat left js t
      else servedWithin i ready lat lat js t
    | .fault _ => True
    | .refused _ => True

/-- The premise SVC_LAT for a run js from s: every service is taken in time (70_reset_and_hazards.md R214). It is a
premise that a proof states, and no transition reads it. -/
def latencyPremise (js : List Instr) (s : State) : Prop :=
  servedWithin .svcCmp State.svcCmpReady s.cfg.svcLat s.cfg.svcLat js s ∧
    servedWithin .svcWrap State.svcWrapReady s.cfg.svcLat s.cfg.svcLat js s ∧
    ∀ l, servedWithin (.svcEdge l) (fun t => t.svcEdgeReady l) s.cfg.svcLat s.cfg.svcLat js s

/-- An entry that a `heap_service()` run wakes a task for: elapsed, and not the heartbeat (41_ticker.md R103). -/
def wakes (c : Config) (now : Word) (e : Entry) : Bool := elapsed c e.d now && e.id != heartbeatId

/-- How many wake requests the expired entries of H make (41_ticker.md R103). -/
def State.wakeCount (s : State) : Nat := s.heap.countP (wakes s.cfg s.cnt)

/-- The identities a list of popped entries wakes, in order (41_ticker.md R103). -/
def wokenIds (popped : List Entry) : List Byte := (popped.filter (fun e => e.id != heartbeatId)).map Entry.id

/-- What a completed `heap_service()` run on a heap h, begun in a state with the parameters, CNT, RQ and CMP of s, leaves in
t (41_ticker.md R101 to R103, R113, R114): a list of elapsed entries was popped in order of signed distance and their
tasks woken in that order, skipping the heartbeat, none of them after an entry of the rest; the rest stays in H, or the
heartbeat entry alone where nothing was left; where no entry reads as HALF ticks overdue no elapsed entry stays; the new
top has not elapsed, and the compare interrupt is programmed and enabled for it where it lies above CNT, and disabled with
CMP kept where it does not. -/
def State.Serviced (s : State) (h : List Entry) (t : State) : Prop :=
  ∃ popped rest, (popped ++ rest).Perm h ∧ (∀ e ∈ popped, elapsed s.cfg e.d s.cnt = true) ∧
    popped.Pairwise (fun a b => sdist s.cfg a.d s.cnt ≤ sdist s.cfg b.d s.cnt) ∧
    (∀ x ∈ popped, ∀ y ∈ rest, sdist s.cfg x.d s.cnt ≤ sdist s.cfg y.d s.cnt) ∧
    ((∀ e ∈ h, -(s.cfg.half : Int) < sdist s.cfg e.d s.cnt) → ∀ e ∈ rest, elapsed s.cfg e.d s.cnt = false) ∧
    t.rq = s.rq ++ wokenIds popped ∧
    t.heap = (if rest = [] then [Entry.mk (tAdd s.cfg s.cnt (heartbeatTicks s.cfg)) heartbeatId] else rest) ∧
    ∃ e, t.heapTop = some e ∧ elapsed s.cfg e.d s.cnt = false ∧
      t.cmp = (if s.cnt.toNat < e.d.toNat then e.d else s.cmp) ∧ t.cie = decide (s.cnt.toNat < e.d.toNat)

/-- What a `heap_service()` run that halts leaves in t (60_exceptions.md R187): the entries up to and including the offending
one e popped, in order of signed distance and none of them after an entry that stays, the tasks of those before e woken,
RQ full, FCAUSE and FINFO naming the overflow and the identity of e, and CMP and CIE as they were. -/
def State.ServiceHalted (s : State) (h : List Entry) (t : State) : Prop :=
  ∃ popped e rest, (popped ++ e :: rest).Perm h ∧ (∀ x ∈ popped ++ [e], elapsed s.cfg x.d s.cnt = true) ∧
    (popped ++ [e]).Pairwise (fun a b => sdist s.cfg a.d s.cnt ≤ sdist s.cfg b.d s.cnt) ∧
    (∀ x ∈ popped ++ [e], ∀ y ∈ rest, sdist s.cfg x.d s.cnt ≤ sdist s.cfg y.d s.cnt) ∧ e.id ≠ heartbeatId ∧
    t.heap = rest ∧ t.rq = s.rq ++ wokenIds popped ∧ t.rq.length = s.cfg.rqCap ∧ t.fcause = 1#32 ∧
    t.finfo = e.id.zeroExtend 32 ∧ t.cmp = s.cmp ∧ t.cie = s.cie

/-- The binary min-heap property of the reference array heap at now: no place is before its parent (41_ticker.md R100). -/
def ArrayHeap (c : Config) (now : Word) (a : List Entry) : Prop :=
  ∀ i j, j = 2 * i + 1 ∨ j = 2 * i + 2 → ltAt c now a j i = false

/-- The identities registered in the wake slots, slot by slot (42_edge.md R129). -/
def State.waiterIds (s : State) : List Byte := (s.slots.map Slot.ws).filter (fun t => t != noTask)

/-- The identities that a step from s to t requested to be woken, seen from outside: those it appended to RQ, or the one
that FINFO names where the request halted the block (44_executor.md R139). -/
def wokenBetween (s t : State) : List Byte :=
  if t.fcause = s.fcause then t.rq.drop s.rq.length else [t.finfo.extractLsb' 0 8]

/-- The identities that the edge services of line l requested to be woken over a run, in order (42_edge.md R127, R129). -/
def edgeWoken (l : Nat) : List Instr → State → List Byte
  | [], _ => []
  | j :: js, s =>
    match exec j s with
    | .next t => (if j = .svcEdge l then wokenBetween s t else []) ++ edgeWoken l js t
    | .fault _ => []
    | .refused _ => []

end Sys2Proof.Machine
end

