-- ==== Sys2Proof/Certificates/Slice0/Obligations.lean ====
section
/-! DEFINITION. The statements about the ZTA block, from the numbered rules of spec/. Statements over `s : State` range over
every parameter set as well, because the parameters are the field cfg. -/

open Sys2Proof Sys2Proof.Machine

/-! ## Reset -/

/-- R49: after the reset input every state element has the value of the reset table, for every admissible parameter set. -/
def Obligations.ResetInputLoadsTheResetTable : Prop :=
  ∀ s : State, s.cfg.wf = true → ∃ t, perform .reset s = .next t ∧
    t.cnt.toNat = s.cfg.cntReset ∧ t.cmp = 0#32 ∧ t.cie = false ∧ t.cf = false ∧ t.wf = false ∧ t.tken = false ∧
    t.heap = [] ∧ t.rq = [] ∧ t.exen = false ∧ t.sleep = false ∧
    (∀ l, l < s.cfg.nline → s.cfg.pinReset[l]? = some (t.pinAt l) ∧ t.pendAt l = false) ∧
    (∀ i, i < s.cfg.nslot → t.slotAt i = Slot.mk 0xFF#8 .low) ∧
    (∀ m, m < s.cfg.nmbox → t.mboxAt m = Mailbox.mk false 0#32 0xFF#8) ∧
    t.cmd = 0#32 ∧ t.arg = 0#32 ∧ t.res0 = 0#32 ∧ t.res1 = 0#32 ∧ t.status = 0#32 ∧
    t.fatal = false ∧ t.fcause = 0#32 ∧ t.finfo = 0#32 ∧ t.ShapeOk

/-- R49 and R12 for `State.reset`: the reset table at the default parameters. The level High of the lines is the default
of the test vectors, not a value of the block (model's choice, log 3). -/
def Obligations.ResetStateHoldsTheDefaults : Prop :=
  State.reset.cfg.wf = true ∧ State.reset.cnt = 0#32 ∧ State.reset.cmp = 0#32 ∧ State.reset.cie = false ∧
    State.reset.cf = false ∧ State.reset.wf = false ∧ State.reset.tken = false ∧ State.reset.heap = [] ∧
    State.reset.rq = [] ∧ State.reset.exen = false ∧ State.reset.sleep = false ∧
    State.reset.pin = [.high, .high, .high, .high] ∧ State.reset.pend = [false, false, false, false] ∧
    State.reset.slots = [Slot.mk 0xFF#8 .low] ∧ State.reset.mboxes = [Mailbox.mk false 0#32 0xFF#8] ∧
    State.reset.cmd = 0#32 ∧ State.reset.arg = 0#32 ∧ State.reset.res0 = 0#32 ∧ State.reset.res1 = 0#32 ∧
    State.reset.status = 0#32 ∧ State.reset.fcause = 0#32 ∧ State.reset.finfo = 0#32

/-- The invariant and the coverage of the nearest deadline hold right after reset, for every admissible parameter set. -/
def Obligations.ResetMeetsTheInvariant : Prop :=
  ∀ c : Config, c.wf = true → (State.init c).Inv ∧ (State.init c).Armed

/-! ## Encoding -/

/-- Command words written out from R72 and R67 decode to their operations, and two words that are none do not. -/
def Obligations.WordsOfTheTableDecode : Prop :=
  decode 0x10000000#32 = .ok .tkInit ∧ decode 0x12000000#32 = .ok .tkStart ∧
    decode 0x13010001#32 = .ok (.tkPoll 1#8 .wait) ∧ decode 0x20000001#32 = .ok (.ewSet 0#8 .high) ∧
    decode 0x21010200#32 = .ok (.ewPoll 1#8 2#8) ∧ decode 0x31FE0000#32 = .ok (.wake 0xFE#8) ∧
    decode 0x35000000#32 = .ok .exSleep ∧ decode 0x40000300#32 = .ok (.mbSend 3#8) ∧
    decode 0x41010001#32 = .ok (.mbRecv 1#8 0#8 .wait) ∧ decode 0x50010600#32 = .ok (.stGet 6#8 1#8) ∧
    decode 0x00000000#32 = .error .unknownOpcode ∧ decode 0x10000001#32 = .error .nonzeroField

/-- Decoding the command word of a well-formed operation gives the operation back, and every well-formed host operation
has a command word. -/
def Obligations.DecodeInvertsEncode : Prop :=
  ∀ i : Instr, i.wf = true →
    (∀ w, encode i = some w → decode w = .ok i) ∧ (i.isHostOp = true → ∃ w, encode i = some w)

/-- Every command word that decodes is the one encoding of the operation it decodes to. -/
def Obligations.EncodeInvertsDecode : Prop :=
  ∀ (w : Word) (i : Instr), decode w = .ok i → encode i = some w

/-- R73, R74: a word is refused as a reserved opcode exactly when no row has its OPC, and otherwise is refused exactly when
`w & mask != match` for the row of its OPC; no word fits two rows. -/
def Obligations.MaskAndMatchDecideTheDecoding : Prop :=
  ∀ w : Word,
    (decode w = .error .unknownOpcode ↔ ∀ o : Opcode, o.code ≠ fieldOpc w) ∧
    (∀ o : Opcode, o.code = fieldOpc w →
      (decode w = .error .nonzeroField ↔ w &&& o.mask ≠ o.matchWord) ∧
      (decode w = .ok (o.instr w) ↔ w &&& o.mask = o.matchWord)) ∧
    (∀ o o' : Opcode, w &&& o.mask = o.matchWord → w &&& o'.mask = o'.matchWord → o = o')

/-! ## Steps, the port, and the halt -/

/-- A step runs the decoded operation: where HOST may step and the agenda begins with a word write of w to CMD, and w
decodes to i, the step is exec of i on the state with the event consumed and w stored in CMD (R39, R57, R79; the agenda is
the model's, log 1). -/
def Obligations.StepRunsTheDecodedOperation : Prop :=
  ∀ (s : State) (w : Word) (i : Instr) (rest : List Event), s.agenda = .write 0x00 .word w :: rest →
    s.hostReady = true → decode w = .ok i → step s = exec i { s with agenda := rest, cmd := w }

/-- A step runs the service or environment step at the head of the agenda, on the state with the event consumed; with an
empty agenda nothing changes (model's choice, log 1). -/
def Obligations.StepRunsTheAgentAtTheHead : Prop :=
  ∀ (s : State) (rest : List Event) (l : Nat) (v : Level),
    (s.agenda = .tick :: rest → step s = exec .tick { s with agenda := rest }) ∧
    (s.agenda = .pin l v :: rest → step s = exec (.pin l v) { s with agenda := rest }) ∧
    (s.agenda = .svcCmp :: rest → step s = exec .svcCmp { s with agenda := rest }) ∧
    (s.agenda = .svcWrap :: rest → step s = exec .svcWrap { s with agenda := rest }) ∧
    (s.agenda = .svcEdge l :: rest → step s = exec (.svcEdge l) { s with agenda := rest }) ∧
    (s.agenda = [] → step s = .next s)

/-- R73: a written word whose OPC is in no row ends with ERR_ILLEGAL, RES0 = RES1 = 0 and no other state change; the
all-zero and the all-ones word are such. R74: so does a word with a one bit in RSV or in an unused field. -/
def Obligations.IllegalWordsReportErrIllegal : Prop :=
  (∀ (s : State) (w : Word) (rest : List Event), s.agenda = .write 0x00 .word w :: rest → s.hostReady = true →
    ((∀ o : Opcode, o.code ≠ fieldOpc w) ∨ (∃ o : Opcode, o.code = fieldOpc w ∧ w &&& o.mask ≠ o.matchWord)) →
      step s = .next { s with agenda := rest, cmd := w, res0 := 0#32, res1 := 0#32, status := 1#32 }) ∧
    (∀ o : Opcode, o.code ≠ fieldOpc 0x00000000#32) ∧ (∀ o : Opcode, o.code ≠ fieldOpc 0xFFFFFFFF#32)

/-- R51, R56, R186: a word read of each register returns its value and changes no state of the block, while HOST is awake and
after the halt as well; a word write of ARG stores the word and does nothing else; a word write of a read-only register is
ignored. That "returns" is the model's own field rdata is its reading (log 5), and so are the reads after the halt where SLEEP
is set (log 8). -/
def Obligations.PortReadsAndPlainWrites : Prop :=
  ∀ (s : State) (v : Word),
    (s.sleep = false ∨ s.fatal = true →
      perform (.read 0x00 .word) s = .next { s with rdata := s.cmd } ∧
      perform (.read 0x04 .word) s = .next { s with rdata := s.arg } ∧
      perform (.read 0x08 .word) s = .next { s with rdata := s.res0 } ∧
      perform (.read 0x0C .word) s = .next { s with rdata := s.res1 } ∧
      perform (.read 0x10 .word) s = .next { s with rdata := s.status } ∧
      perform (.read 0x14 .word) s = .next { s with rdata := s.fcause } ∧
      perform (.read 0x18 .word) s = .next { s with rdata := s.finfo }) ∧
    (s.hostReady = true →
      perform (.write 0x04 .word v) s = .next { s with arg := v } ∧
      (∀ off ∈ [0x08, 0x0C, 0x10, 0x14, 0x18], perform (.write off .word v) s = .next s))

/-- R55, R51: a byte or halfword access, a word access at an offset that is no multiple of 4, and an access at an offset
from 0x1C up are refused, by names of their own, while HOST is awake and after the halt as well. That a sleeping HOST of a
block without the halt makes no access at all is not part of it (R146, log 8). -/
def Obligations.MalformedAccessesAreRefused : Prop :=
  ∀ (s : State) (off : Nat) (v : Word), s.sleep = false ∨ s.fatal = true →
    (∀ width, width ≠ .word → perform (.write off width v) s = .refused (.narrowAccess off) ∧
      perform (.read off width) s = .refused (.narrowAccess off)) ∧
    (off % 4 ≠ 0 → perform (.write off .word v) s = .refused (.unalignedAccess off) ∧
      perform (.read off .word) s = .refused (.unalignedAccess off)) ∧
    (off % 4 = 0 → 0x1C ≤ off → perform (.write off .word v) s = .refused (.outsideBlock off) ∧
      perform (.read off .word) s = .refused (.outsideBlock off))

/-- R57: a write of a word to ARG and then of an operation's word to CMD is the operation performed on that operand. -/
def Obligations.ArgThenCmdPerformsTheOperation : Prop :=
  ∀ (s : State) (w a : Word) (i : Instr) (t : State), s.hostReady = true → decode w = .ok i →
    exec i { s with arg := a, cmd := w } = .next t →
    performAll [.write 0x04 .word a, .write 0x00 .word w] s = some t

/-- No instruction stops the machine: each ends in a next state, in every state (R15, R76, R82, R186). For an instruction
offered where it is not enabled, which the spec says is not a step, the next state is the unchanged one, by the model's choice
(log 2). -/
def Obligations.EveryInstructionEndsInANextState : Prop :=
  ∀ (i : Instr) (s : State), ∃ t, exec i s = .next t

/-- After a fatal halt no agent has an enabled step: every step but reset leaves the whole block as it is, only the event is
consumed, and a port read still answers with its register (R186, R188, R218). That an offer which is no step is answered by
the unchanged state is the model's choice (log 2), and that a write of ARG is ignored is its reading (log 8). -/
def Obligations.HaltedBlockIsAFixedPoint : Prop :=
  ∀ s t : State, s.fatal = true → s.agenda.head? ≠ some .reset → step s = .next t →
    t = { s with agenda := s.agenda.tail, rdata := t.rdata } ∧
    (∀ off r, s.agenda.head? = some (.read off .word) → portAccess off .word = .ok r → t.rdata = s.portReg r) ∧
    ((∀ off width, s.agenda.head? ≠ some (.read off width)) → t.rdata = s.rdata)

/-- While SLEEP = 1 HOST has no step: no host operation and no port access changes anything (R25, R79 (0), R146). -/
def Obligations.SleepingHostHasNoStep : Prop :=
  ∀ (s : State) (i : Instr) (off : Nat) (width : AccessWidth) (v : Word), s.sleep = true →
    (i.isHostOp = true → exec i s = .next s) ∧
    (s.fatal = false → perform (.write off width v) s = .next s ∧ perform (.read off width) s = .next s)

/-- R109 (enabling), R110, R111, R126, R127: a service or environment step that is not enabled is not taken. That the model
answers such an offer with the unchanged state is its choice (log 2). -/
def Obligations.StepsNotEnabledChangeNothing : Prop :=
  ∀ (s : State) (l : Nat) (v : Level),
    (s.fcause ≠ 0#32 → exec .tick s = .next s) ∧
    (¬(s.fcause = 0#32 ∧ s.tken = true ∧ s.cf = true ∧ s.cie = true) → exec .svcCmp s = .next s) ∧
    (¬(s.fcause = 0#32 ∧ s.tken = true ∧ s.wf = true) → exec .svcWrap s = .next s) ∧
    (¬(s.fcause = 0#32 ∧ s.pendAt l = true) → exec (.svcEdge l) s = .next s) ∧
    (¬(s.fcause = 0#32 ∧ l < s.cfg.nline ∧ v ≠ s.pinAt l) → exec (.pin l v) s = .next s)

/-! ## Tick unit and deadline scheduler -/

/-- R104: TK_INIT clears H, CF and WF, sets TKEN, and `heap_service()` inserts the heartbeat and arms for it; a second
TK_INIT ends with ERR_STATE and drops nothing. -/
def Obligations.TkInitEstablishesTheHeartbeat : Prop :=
  encode .tkInit = some 0x10000000#32 ∧
  ∀ s : State, s.hostReady = true → s.cfg.wf = true → s.cnt.toNat < s.cfg.mod →
    (s.tken = true → exec .tkInit s = .next { s with res0 := 0#32, res1 := 0#32, status := 3#32 }) ∧
    (s.tken = false → ∃ d : Word, d.toNat = (s.cnt.toNat + s.cfg.heartbeat) % s.cfg.mod ∧ ∃ n : Nat,
      exec .tkInit s = .next { s with
        heap := [Entry.mk d 0xFE#8], arrangement := n, cf := false, wf := false, tken := true,
        cmp := if s.cnt.toNat < d.toNat then d else s.cmp, cie := decide (s.cnt.toNat < d.toNat),
        res0 := 0#32, res1 := 0#32, status := 0#32 })

/-- R105: TK_NOW returns CNT and changes nothing else. -/
def Obligations.TkNowReturnsTheCounter : Prop :=
  encode .tkNow = some 0x11000000#32 ∧
  ∀ s : State, s.hostReady = true → exec .tkNow s = .next { s with res0 := s.cnt, res1 := 0#32, status := 0#32 }

/-- R106: TK_START returns CNT +t ARG and registers nothing; a duration above MAX_DUR ends with ERR_RANGE. -/
def Obligations.TkStartReturnsTheEndTime : Prop :=
  encode .tkStart = some 0x12000000#32 ∧
  ∀ s : State, s.hostReady = true → s.cfg.wf = true →
    (s.arg.toNat ≤ 2 ^ (s.cfg.tickW - 1) - 1 → ∃ e : Word, e.toNat = (s.cnt.toNat + s.arg.toNat) % 2 ^ s.cfg.tickW ∧
      exec .tkStart s = .next { s with res0 := e, res1 := 0#32, status := 0#32 }) ∧
    (2 ^ (s.cfg.tickW - 1) - 1 < s.arg.toNat →
      exec .tkStart s = .next { s with res0 := 0#32, res1 := 0#32, status := 2#32 })

/-- TK_POLL in phase Wait compares CNT with the end time and changes nothing but the results; range is tested before the
initialisation, and both before anything else (R107, R79, R189). -/
def Obligations.TkPollWaitComparesAndRefusesInOrder : Prop :=
  ∀ (s : State) (tid : Byte) (ph : Phase),
    encode (.tkPoll tid ph) = some (0x13000000#32 ||| tid.zeroExtend 32 <<< 16 ||| BitVec.ofNat 32 ph.toBool.toNat) ∧
    (s.hostReady = true → s.cfg.wf = true → s.cnt.toNat < s.cfg.mod →
      (s.cfg.ntask ≤ tid.toNat ∨ s.cfg.mod ≤ s.arg.toNat →
        exec (.tkPoll tid ph) s = .next { s with res0 := 0#32, res1 := 0#32, status := 2#32 }) ∧
      (tid.toNat < s.cfg.ntask → s.arg.toNat < s.cfg.mod → s.tken = false →
        exec (.tkPoll tid ph) s = .next { s with res0 := 0#32, res1 := 0#32, status := 3#32 }) ∧
      (tid.toNat < s.cfg.ntask → s.arg.toNat < s.cfg.mod → s.tken = true →
        exec (.tkPoll tid .wait) s = .next { s with
          res0 := if (s.cnt.toNat + s.cfg.mod - s.arg.toNat) % s.cfg.mod < s.cfg.half then 3#32 else 2#32,
          res1 := 0#32, status := 0#32 }))

/-- TK_POLL in phase Init on a full heap halts with HEAP_FULL and the task identity, before the push; otherwise it pushes the
deadline and runs `heap_service()`, and ends Pending with next phase Wait where RQ has room for the expired entries, or
halts where `heap_service()` halts (R107, R112, R187). -/
def Obligations.TkPollInitRegistersTheDeadline : Prop :=
  ∀ (s : State) (tid : Byte), s.hostReady = true → s.cfg.wf = true → s.cnt.toNat < s.cfg.mod →
    (∀ e ∈ s.heap, e.d.toNat < s.cfg.mod) → tid.toNat < s.cfg.ntask → s.arg.toNat < s.cfg.mod → s.tken = true →
    (s.heap.length = s.cfg.heapCap →
      exec (.tkPoll tid .init) s = .next { s with fcause := 2#32, finfo := tid.zeroExtend 32 }) ∧
    (s.heap.length ≠ s.cfg.heapCap → ∃ t, exec (.tkPoll tid .init) s = .next t ∧
      ((s.Serviced (Entry.mk s.arg tid :: s.heap) t ∧ t = { s with
          heap := t.heap, arrangement := t.arrangement, rq := t.rq, cmp := t.cmp, cie := t.cie,
          res0 := 2#32, res1 := 0#32, status := 0#32 }) ∨
        (s.ServiceHalted (Entry.mk s.arg tid :: s.heap) t ∧ t = { s with
          heap := t.heap, arrangement := t.arrangement, rq := t.rq, fcause := t.fcause, finfo := t.finfo })) ∧
      (s.rq.length + (Entry.mk s.arg tid :: s.heap).countP (wakes s.cfg s.cnt) ≤ s.cfg.rqCap →
        t.fcause = 0#32 ∧ s.Serviced (Entry.mk s.arg tid :: s.heap) t))

/-- A deadline-wait made by TK_START resolves exactly from its end time on: polled k ticks later, k below the duration plus
HALF, it is Ready exactly when k has reached the duration (R95, R106, R107, R213). -/
def Obligations.DeadlineWaitIsReadyExactlyFromItsEndTime : Prop :=
  ∀ (s u : State) (tid : Byte) (k : Nat), s.hostReady = true → s.cfg.wf = true → s.cnt.toNat < s.cfg.mod →
    s.tken = true → tid.toNat < s.cfg.ntask → s.arg.toNat ≤ s.cfg.maxDur → k < s.arg.toNat + s.cfg.half →
    ticks k s = some u →
    ∃ t v, exec .tkStart s = .next t ∧ exec (.tkPoll tid .wait) { u with arg := t.res0 } = .next v ∧
      v.res0 = (if s.arg.toNat ≤ k then 3#32 else 2#32) ∧ v.res1 = 0#32 ∧ v.status = 0#32

/-- R109: TICK, enabled whenever FATAL = 0, adds one to CNT modulo MOD, sets CF on a match with CMP whatever CIE is, sets WF
when the new CNT is 0, and writes nothing else; it is the only step that changes CNT. -/
def Obligations.TickAdvancesTheCounter : Prop :=
  ∀ s : State, s.cfg.wf = true →
    (s.fcause = 0#32 → ∃ now : Word, now.toNat = (s.cnt.toNat + 1) % s.cfg.mod ∧
      exec .tick s = .next { s with
        cnt := now, cf := if now = s.cmp then true else s.cf, wf := if now = 0#32 then true else s.wf }) ∧
    (∀ (i : Instr) (t : State), i ≠ .tick → exec i s = .next t → t.cnt = s.cnt)

/-- n TICK steps advance CNT by n modulo MOD and write nothing but CNT, CF and WF, which stay set once set; the number of
ticks that pass is not bounded (R17, R109). -/
def Obligations.TicksAddUp : Prop :=
  ∀ (n : Nat) (s : State), s.fatal = false → s.cfg.wf = true → s.cnt.toNat < s.cfg.mod →
    ∃ u, ticks n s = some u ∧ u.cnt.toNat = (s.cnt.toNat + n) % s.cfg.mod ∧
      u = { s with cnt := u.cnt, cf := u.cf, wf := u.wf } ∧ (s.cf = true → u.cf = true) ∧ (s.wf = true → u.wf = true) ∧
      (s.cmp.toNat = (s.cnt.toNat + n) % s.cfg.mod → 0 < n → u.cf = true) ∧
      (s.cfg.mod ≤ s.cnt.toNat + n → u.wf = true)

/-- SVC_CMP, enabled, clears CF and runs `heap_service()`; it ends with SLEEP 0, or halts where `heap_service()` halts; it
does not halt where RQ has room for the expired entries (R110, R113, R114, R187). -/
def Obligations.SvcCmpServesTheHeap : Prop :=
  ∀ s : State, s.fcause = 0#32 → s.tken = true → s.cf = true → s.cie = true → s.cfg.wf = true →
    s.cnt.toNat < s.cfg.mod → (∀ e ∈ s.heap, e.d.toNat < s.cfg.mod) →
    ∃ t, exec .svcCmp s = .next t ∧
      ((s.Serviced s.heap t ∧ t = { s with
          cf := false, sleep := false, heap := t.heap, arrangement := t.arrangement, rq := t.rq, cmp := t.cmp,
          cie := t.cie }) ∨
        (s.ServiceHalted s.heap t ∧ t = { s with
          cf := false, heap := t.heap, arrangement := t.arrangement, rq := t.rq, fcause := t.fcause,
          finfo := t.finfo })) ∧
      (s.rq.length + s.wakeCount ≤ s.cfg.rqCap → t.fcause = 0#32 ∧ s.Serviced s.heap t)

/-- SVC_WRAP, enabled, clears WF and runs `heap_service()` likewise; run before half a wrap period has passed it always
leaves the compare interrupt enabled (R111). -/
def Obligations.SvcWrapServesTheHeap : Prop :=
  ∀ s : State, s.fcause = 0#32 → s.tken = true → s.wf = true → s.cfg.wf = true → s.cnt.toNat < s.cfg.mod →
    (∀ e ∈ s.heap, e.d.toNat < s.cfg.mod) →
    ∃ t, exec .svcWrap s = .next t ∧
      ((s.Serviced s.heap t ∧ t = { s with
          wf := false, sleep := false, heap := t.heap, arrangement := t.arrangement, rq := t.rq, cmp := t.cmp,
          cie := t.cie } ∧ (s.cnt.toNat < s.cfg.half → t.cie = true)) ∨
        (s.ServiceHalted s.heap t ∧ t = { s with
          wf := false, heap := t.heap, arrangement := t.arrangement, rq := t.rq, fcause := t.fcause,
          finfo := t.finfo })) ∧
      (s.rq.length + s.wakeCount ≤ s.cfg.rqCap → t.fcause = 0#32 ∧ s.Serviced s.heap t)

/-- No wake is dropped: where no entry reads as HALF ticks overdue and the expired entries make more wake requests than RQ has
room for, SVC_CMP, SVC_WRAP and TK_POLL in phase Init, its own entry counted, halt with RQ_FULL (R172, R173, R187). -/
def Obligations.HeapServiceHaltsWhenTheQueueOverflows : Prop :=
  ∀ s : State, s.fcause = 0#32 → s.tken = true → s.cfg.wf = true → s.cnt.toNat < s.cfg.mod →
    (∀ e ∈ s.heap, e.d.toNat < s.cfg.mod) → s.InWindow → s.rq.length ≤ s.cfg.rqCap →
    (s.cfg.rqCap < s.rq.length + s.wakeCount →
      (s.cf = true → s.cie = true → ∃ t, exec .svcCmp s = .next t ∧ s.ServiceHalted s.heap t) ∧
      (s.wf = true → ∃ t, exec .svcWrap s = .next t ∧ s.ServiceHalted s.heap t)) ∧
    (∀ tid : Byte, s.sleep = false → tid.toNat < s.cfg.ntask → s.arg.toNat < s.cfg.mod →
      s.heap.length ≠ s.cfg.heapCap → -(s.cfg.half : Int) < sdist s.cfg s.arg s.cnt →
      s.cfg.rqCap < s.rq.length + (Entry.mk s.arg tid :: s.heap).countP (wakes s.cfg s.cnt) →
      ∃ t, exec (.tkPoll tid .init) s = .next t ∧ s.ServiceHalted (Entry.mk s.arg tid :: s.heap) t)

/-- R30: under the window premise sdist(d, CNT) = Td - T for every entry, so that the order of H is the order of true deadlines
and `elapsed(d, CNT)` is Td <= T. DEDUCED (log 17): an entry exactly HALF ticks overdue, which the premise admits, is left out
of the clause on `elapsed`, because 41_ticker.md R94 says that it is false there. The end time that TK_START gives stands for
T0 + dur, inside the window until it is more than HALF ticks old; the premise holds after reset; every instruction but TICK
keeps it, TK_POLL in phase Init where the end time in ARG is in the window; and TICK keeps it exactly where no entry is HALF
ticks overdue before it. A TICK then takes every signed distance down by one and keeps the order, with or without T and Td. -/
def Obligations.WindowPremiseGivesTrueDeadlineOrder : Prop :=
  (∀ c : Config, c.wf = true → (Timed.start c).WindowPremise) ∧
  (∀ x : Timed, x.block.cfg.wf = true → x.WindowPremise →
    (∀ e ∈ x.block.heap, sdist x.block.cfg e.d x.block.cnt = x.due e - x.time ∧
      (x.due e - x.time ≠ -(x.block.cfg.half : Int) →
        (elapsed x.block.cfg e.d x.block.cnt = true ↔ x.due e ≤ x.time))) ∧
    (∀ a ∈ x.block.heap, ∀ b ∈ x.block.heap,
      sdist x.block.cfg a.d x.block.cnt < sdist x.block.cfg b.d x.block.cnt ↔ x.due a < x.due b) ∧
    (x.block.hostReady = true → x.block.arg.toNat ≤ x.block.cfg.maxDur → ∃ t, exec .tkStart x.block = .next t ∧
      ∀ later : Nat, x.time ≤ later → later ≤ x.time + x.block.arg.toNat + x.block.cfg.half →
        dueInWindow x.block.cfg later t.res0 (x.time + x.block.arg.toNat : Nat)) ∧
    (∀ (i : Instr) (td : Int) (t : State), i ≠ .tick → exec i x.block = .next t →
      (∀ tid, i = .tkPoll tid .init → dueInWindow x.block.cfg x.time (instantOf x.block.cfg x.block.arg) td) →
      (x.next i td t).WindowPremise) ∧
    (∀ (td : Int) (t : State), x.block.fatal = false → exec .tick x.block = .next t →
      ((x.next .tick td t).WindowPremise ↔ x.block.InWindow))) ∧
  ∀ s t : State, s.cfg.wf = true → s.cnt.toNat < s.cfg.mod → (∀ e ∈ s.heap, e.d.toNat < s.cfg.mod) → s.InWindow →
    s.fatal = false → exec .tick s = .next t →
    t.heap = s.heap ∧ (∀ e ∈ s.heap, sdist t.cfg e.d t.cnt = sdist s.cfg e.d s.cnt - 1) ∧
    (∀ a ∈ s.heap, ∀ b ∈ s.heap,
      sdist t.cfg a.d t.cnt < sdist t.cfg b.d t.cnt ↔ sdist s.cfg a.d s.cnt < sdist s.cfg b.d s.cnt)

/-- R98 through ST_GET: selector 3 shows an entry of H of which no entry has a smaller signed distance, for every
election; with H empty it ends with ERR_STATE (R98, R99, R157). -/
def Obligations.ShownTopIsNearest : Prop :=
  ∀ s : State, s.hostReady = true →
    (s.heap = [] → exec (.stGet 3#8 0#8) s = .next { s with res0 := 0#32, res1 := 0#32, status := 3#32 }) ∧
    (s.heap ≠ [] → ∃ e ∈ s.heap, (∀ e' ∈ s.heap, sdist s.cfg e.d s.cnt ≤ sdist s.cfg e'.d s.cnt) ∧
      exec (.stGet 3#8 0#8) s = .next { s with res0 := e.d, res1 := e.id.zeroExtend 32, status := 0#32 })

/-- The reference array heap (PRESUMED, log 6), where H has its heap property at CNT: the top is the first place, which holds
an entry of minimal signed distance; push adds its entry and nothing else, pop removes the top and nothing else, and both keep
the heap property (R100, and R96 to R99 for this election). -/
def Obligations.ArrayHeapIsAnInstanceOfTheElection : Prop :=
  ∀ s : State, s.cfg.tie = .array → ArrayHeap s.cfg s.cnt s.heap →
    s.heapTop = s.heap.head? ∧
    (∀ e, s.heap.head? = some e → ∀ x ∈ s.heap, sdist s.cfg e.d s.cnt ≤ sdist s.cfg x.d s.cnt) ∧
    (∀ e, (s.heapPush e).heap.Perm (e :: s.heap) ∧ ArrayHeap s.cfg s.cnt (s.heapPush e).heap) ∧
    (∀ e, s.heapTop = some e → (e :: (s.heapPop e).heap).Perm s.heap ∧ ArrayHeap s.cfg s.cnt (s.heapPop e).heap)

/-! ## Edge synchroniser -/

/-- R122: EW_SET writes TARGET of the slot and nothing else but the results. -/
def Obligations.EwSetWritesTheTarget : Prop :=
  ∀ (s : State) (slot : Byte) (lvl : Level),
    encode (.ewSet slot lvl) =
      some (0x20000000#32 ||| slot.zeroExtend 32 <<< 8 ||| BitVec.ofNat 32 lvl.toBool.toNat) ∧
    (s.hostReady = true →
      (s.cfg.nslot ≤ slot.toNat → exec (.ewSet slot lvl) s = .next { s with res0 := 0#32, res1 := 0#32, status := 2#32 }) ∧
      (slot.toNat < s.cfg.nslot → exec (.ewSet slot lvl) s = .next { s with
        slots := s.slots.set slot.toNat (Slot.mk (s.slotAt slot.toNat).ws lvl), res0 := 0#32, res1 := 0#32,
        status := 0#32 }))

/-- R123: EW_POLL compares the line's level with the target: equal is Ready and writes no slot, else the caller is
recorded in the wake slot and the result is Pending. -/
def Obligations.EwPollComparesOrRegisters : Prop :=
  ∀ (s : State) (tid slot : Byte),
    encode (.ewPoll tid slot) = some (0x21000000#32 ||| tid.zeroExtend 32 <<< 16 ||| slot.zeroExtend 32 <<< 8) ∧
    (s.hostReady = true →
      (s.cfg.ntask ≤ tid.toNat ∨ s.cfg.nslot ≤ slot.toNat →
        exec (.ewPoll tid slot) s = .next { s with res0 := 0#32, res1 := 0#32, status := 2#32 }) ∧
      (∀ l, tid.toNat < s.cfg.ntask → s.cfg.lineOfSlot[slot.toNat]? = some l →
        (s.pinAt l = (s.slotAt slot.toNat).target →
          exec (.ewPoll tid slot) s = .next { s with res0 := 1#32, res1 := 0#32, status := 0#32 }) ∧
        (s.pinAt l ≠ (s.slotAt slot.toNat).target →
          exec (.ewPoll tid slot) s = .next { s with
            slots := s.slots.set slot.toNat (Slot.mk tid (s.slotAt slot.toNat).target),
            res0 := 0#32, res1 := 0#32, status := 0#32 })))

/-- R126: PIN(l, v), enabled, writes the level and sets PEND[l] exactly on an enabled edge; a set PEND[l] stays set. -/
def Obligations.PinStepDetectsEdges : Prop :=
  ∀ (s : State) (l : Nat) (v : Level), s.fcause = 0#32 → l < s.cfg.nline → v ≠ s.pinAt l →
    ((v = .high ∧ s.cfg.edgeRise[l]? = some true) ∨ (v = .low ∧ s.cfg.edgeFall[l]? = some true) →
      exec (.pin l v) s = .next { s with pin := s.pin.set l v, pend := s.pend.set l true }) ∧
    (¬((v = .high ∧ s.cfg.edgeRise[l]? = some true) ∨ (v = .low ∧ s.cfg.edgeFall[l]? = some true)) →
      exec (.pin l v) s = .next { s with pin := s.pin.set l v })

/-- R127, R128: SVC_EDGE(l), enabled, clears PEND[l]; on an unconfigured line it then only clears SLEEP; on a slot's line it
takes the waiter, leaves NO_TASK and wakes the waiter, or halts on a full queue with the slot taken and SLEEP kept. -/
def Obligations.SvcEdgeTakesAndWakes : Prop :=
  ∀ (s : State) (l : Nat), s.fcause = 0#32 → s.pendAt l = true → s.cfg.wf = true →
    (l ∉ s.cfg.lineOfSlot → exec (.svcEdge l) s = .next { s with pend := s.pend.set l false, sleep := false }) ∧
    (∀ i, s.cfg.lineOfSlot[i]? = some l →
      ((s.slotAt i).ws = 0xFF#8 → exec (.svcEdge l) s = .next { s with
          pend := s.pend.set l false, slots := s.slots.set i (Slot.mk 0xFF#8 (s.slotAt i).target), sleep := false }) ∧
      ((s.slotAt i).ws ≠ 0xFF#8 → s.rq.length ≠ s.cfg.rqCap → exec (.svcEdge l) s = .next { s with
          pend := s.pend.set l false, slots := s.slots.set i (Slot.mk 0xFF#8 (s.slotAt i).target),
          rq := s.rq ++ [(s.slotAt i).ws], sleep := false }) ∧
      ((s.slotAt i).ws ≠ 0xFF#8 → s.rq.length = s.cfg.rqCap → exec (.svcEdge l) s = .next { s with
          pend := s.pend.set l false, slots := s.slots.set i (Slot.mk 0xFF#8 (s.slotAt i).target),
          fcause := 1#32, finfo := (s.slotAt i).ws.zeroExtend 32 }))

/-- R129: over any run without an EW_POLL of slot i, whatever other steps stand in it, the edge services of the slot's line
request a wake at most once, for the identity registered in the slot at the start, however many edges occur. Over a run of
TICK, PIN and edge service steps alone, the identities appended to RQ and those still registered at the end, slots taken
together, are a sub-multiset of those registered at the start. -/
def Obligations.EdgesWakeEachWaiterAtMostOnce : Prop :=
  (∀ (js : List Instr) (s : State) (i l : Nat), s.cfg.wf = true → s.cfg.lineOfSlot[i]? = some l →
    (∀ tid slot, Instr.ewPoll tid slot ∈ js → slot.toNat ≠ i) →
    edgeWoken l js s = [] ∨ ((s.slotAt i).ws ≠ 0xFF#8 ∧ edgeWoken l js s = [(s.slotAt i).ws])) ∧
  (∀ (js : List Instr) (s u : State),
    (∀ j ∈ js, j = .tick ∨ (∃ l v, j = .pin l v) ∨ (∃ l, j = .svcEdge l)) → execAll js s = some u →
    ∃ woken, u.rq = s.rq ++ woken ∧ (woken ++ u.waiterIds).Subperm s.waiterIds)

/-- No lost wake: after a Pending EW_POLL, the change of the line to the target level with that edge enabled sets PEND, and
the edge service wakes the registered task, whose next poll is Ready (R130). -/
def Obligations.EdgeToTheTargetWakesTheWaiter : Prop :=
  ∀ (s : State) (tid slot : Byte) (l : Nat), s.Inv → s.hostReady = true → tid.toNat < s.cfg.ntask →
    s.cfg.lineOfSlot[slot.toNat]? = some l → s.pinAt l ≠ (s.slotAt slot.toNat).target →
    edgeEnabled s.cfg l (s.slotAt slot.toNat).target = true → s.rq.length < s.cfg.rqCap →
    ∃ t1 t2 t3 t4, exec (.ewPoll tid slot) s = .next t1 ∧ t1.res0 = 0#32 ∧ (t1.slotAt slot.toNat).ws = tid ∧
      exec (.pin l (s.slotAt slot.toNat).target) t1 = .next t2 ∧ t2.pendAt l = true ∧
      exec (.svcEdge l) t2 = .next t3 ∧ t3.rq = s.rq ++ [tid] ∧ (t3.slotAt slot.toNat).ws = 0xFF#8 ∧
      exec (.ewPoll tid slot) t3 = .next t4 ∧ t4.res0 = 1#32

/-! ## Mailbox -/

/-- R133: MB_SEND stores the item, overwriting, and then wakes the registered waker, which stays registered; a full queue
halts after the store. -/
def Obligations.MbSendStoresAndSignals : Prop :=
  ∀ (s : State) (m : Byte),
    encode (.mbSend m) = some (0x40000000#32 ||| m.zeroExtend 32 <<< 8) ∧
    (s.hostReady = true →
      (s.cfg.nmbox ≤ m.toNat → exec (.mbSend m) s = .next { s with res0 := 0#32, res1 := 0#32, status := 2#32 }) ∧
      (m.toNat < s.cfg.nmbox →
        ((s.mboxAt m.toNat).mbw = 0xFF#8 → exec (.mbSend m) s = .next { s with
          mboxes := s.mboxes.set m.toNat (Mailbox.mk true s.arg 0xFF#8),
          res0 := 0#32, res1 := 0#32, status := 0#32 }) ∧
        (m.toNat < s.mboxes.length → (s.mboxAt m.toNat).mbw ≠ 0xFF#8 → s.rq.length ≠ s.cfg.rqCap →
          exec (.mbSend m) s = .next { s with
            mboxes := s.mboxes.set m.toNat (Mailbox.mk true s.arg (s.mboxAt m.toNat).mbw),
            rq := s.rq ++ [(s.mboxAt m.toNat).mbw], res0 := 0#32, res1 := 0#32, status := 0#32 }) ∧
        (m.toNat < s.mboxes.length → (s.mboxAt m.toNat).mbw ≠ 0xFF#8 → s.rq.length = s.cfg.rqCap →
          exec (.mbSend m) s = .next { s with
            mboxes := s.mboxes.set m.toNat (Mailbox.mk true s.arg (s.mboxAt m.toNat).mbw),
            fcause := 1#32, finfo := (s.mboxAt m.toNat).mbw.zeroExtend 32 })))

/-- R134: MB_RECV in phase Init registers the caller and never takes; in phase Wait it takes a present item, whoever is
registered, and is Pending without one. -/
def Obligations.MbRecvRegistersThenTakes : Prop :=
  ∀ (s : State) (tid m : Byte) (ph : Phase),
    encode (.mbRecv tid m ph) = some (0x41000000#32 ||| tid.zeroExtend 32 <<< 16 ||| m.zeroExtend 32 <<< 8 |||
      BitVec.ofNat 32 ph.toBool.toNat) ∧
    (s.hostReady = true →
      (s.cfg.ntask ≤ tid.toNat ∨ s.cfg.nmbox ≤ m.toNat →
        exec (.mbRecv tid m ph) s = .next { s with res0 := 0#32, res1 := 0#32, status := 2#32 }) ∧
      (tid.toNat < s.cfg.ntask → m.toNat < s.cfg.nmbox →
        exec (.mbRecv tid m .init) s = .next { s with
          mboxes := s.mboxes.set m.toNat (Mailbox.mk (s.mboxAt m.toNat).mbf (s.mboxAt m.toNat).mbi tid),
          res0 := 2#32, res1 := 0#32, status := 0#32 } ∧
        ((s.mboxAt m.toNat).mbf = true → exec (.mbRecv tid m .wait) s = .next { s with
          mboxes := s.mboxes.set m.toNat (Mailbox.mk false (s.mboxAt m.toNat).mbi (s.mboxAt m.toNat).mbw),
          res0 := 3#32, res1 := (s.mboxAt m.toNat).mbi, status := 0#32 }) ∧
        ((s.mboxAt m.toNat).mbf = false →
          exec (.mbRecv tid m .wait) s = .next { s with res0 := 2#32, res1 := 0#32, status := 0#32 })))

/-- Exactly once: a send and then a receive in phase Wait gives the item, and every further receive without a send stays
Pending (R135). -/
def Obligations.SentItemIsReceivedExactlyOnce : Prop :=
  ∀ (s : State) (tid m : Byte) (n : Nat), s.hostReady = true → s.ShapeOk → tid.toNat < s.cfg.ntask →
    m.toNat < s.cfg.nmbox → s.rq.length < s.cfg.rqCap →
    ∃ u v, execAll [.mbSend m, .mbRecv tid m .wait] s = some u ∧ u.res0 = 3#32 ∧ u.res1 = s.arg ∧
      execAll (List.replicate (n + 1) (.mbRecv tid m .wait)) u = some v ∧ v.res0 = 2#32 ∧ v.res1 = 0#32

/-- Overwrite: after two sends the receive gives the second item only, and a registered waker was woken twice (R136). -/
def Obligations.SecondSendOverwritesTheFirst : Prop :=
  ∀ (s : State) (tid m : Byte) (v2 : Word), s.hostReady = true → s.ShapeOk → tid.toNat < s.cfg.ntask →
    m.toNat < s.cfg.nmbox → s.rq.length + 2 ≤ s.cfg.rqCap →
    ∃ t u w, exec (.mbSend m) s = .next t ∧ exec (.mbSend m) { t with arg := v2 } = .next u ∧
      exec (.mbRecv tid m .wait) u = .next w ∧ w.res0 = 3#32 ∧ w.res1 = v2 ∧ (w.mboxAt m.toNat).mbf = false ∧
      ((s.mboxAt m.toNat).mbw ≠ 0xFF#8 → w.rq = s.rq ++ [(s.mboxAt m.toNat).mbw, (s.mboxAt m.toNat).mbw])

/-! ## Ready queue and executor -/

/-- R142: EX_INIT empties RQ and wakes every identity once, in order; with more tasks than places it halts with the first
identity that does not fit, the ones before it in RQ; a second EX_INIT ends with ERR_STATE. -/
def Obligations.ExInitSeedsEveryTask : Prop :=
  encode .exInit = some 0x30000000#32 ∧
  ∀ s : State, s.hostReady = true → s.cfg.wf = true →
    (s.exen = true → exec .exInit s = .next { s with res0 := 0#32, res1 := 0#32, status := 3#32 }) ∧
    (s.exen = false → s.cfg.ntask ≤ s.cfg.rqCap → exec .exInit s = .next { s with
      rq := (List.range s.cfg.ntask).map (BitVec.ofNat 8), exen := true, res0 := 0#32, res1 := 0#32,
      status := 0#32 }) ∧
    (s.exen = false → s.cfg.rqCap < s.cfg.ntask → exec .exInit s = .next { s with
      rq := (List.range s.cfg.rqCap).map (BitVec.ofNat 8), exen := true, fcause := 1#32,
      finfo := BitVec.ofNat 32 s.cfg.rqCap })

/-- R143: WAKE appends any 8-bit value, unchecked and unmerged, or halts with it on a full queue. -/
def Obligations.WakeAppendsOrHalts : Prop :=
  ∀ (s : State) (tid : Byte),
    encode (.wake tid) = some (0x31000000#32 ||| tid.zeroExtend 32 <<< 16) ∧
    (s.hostReady = true →
      (s.rq.length ≠ s.cfg.rqCap → exec (.wake tid) s = .next { s with
        rq := s.rq ++ [tid], res0 := 0#32, res1 := 0#32, status := 0#32 }) ∧
      (s.rq.length = s.cfg.rqCap → exec (.wake tid) s = .next { s with fcause := 1#32, finfo := tid.zeroExtend 32 }))

/-- R144: WAKE_WK with the handle of a valid task wakes it or halts on a full queue; any other value halts with
UNKNOWN_WAKER, the waker test coming before the queue test. -/
def Obligations.WakeWkKnowsItsWakers : Prop :=
  encode .wakeWk = some 0x32000000#32 ∧
  ∀ s : State, s.hostReady = true →
    (s.arg.toNat / 256 ≠ 0x57414B ∨ s.cfg.ntask ≤ s.arg.toNat % 256 →
      exec .wakeWk s = .next { s with fcause := 3#32, finfo := s.arg }) ∧
    (s.arg.toNat / 256 = 0x57414B → s.arg.toNat % 256 < s.cfg.ntask →
      (s.rq.length ≠ s.cfg.rqCap → exec .wakeWk s = .next { s with
        rq := s.rq ++ [BitVec.ofNat 8 (s.arg.toNat % 256)], res0 := 0#32, res1 := 0#32, status := 0#32 }) ∧
      (s.rq.length = s.cfg.rqCap → exec .wakeWk s = .next { s with
        fcause := 1#32, finfo := BitVec.ofNat 32 (s.arg.toNat % 256) }))

/-- R148 and R147: WK_GET returns the handle, 0x57414B00 with the identity in its low byte; a value is a known waker exactly
when its bits [31:8] are 0x57414B and its bits [7:0] are below NTASK, so that the known wakers are exactly the handles that
WK_GET returns. -/
def Obligations.WkGetReturnsTheHandle : Prop :=
  (∀ (c : Config) (h : Word), knownWaker c h = true ↔ h.toNat / 256 = 0x57414B ∧ h.toNat % 256 < c.ntask) ∧
  ∀ (s : State) (tid : Byte),
    encode (.wkGet tid) = some (0x33000000#32 ||| tid.zeroExtend 32 <<< 16) ∧
    (s.hostReady = true →
      (s.cfg.ntask ≤ tid.toNat → exec (.wkGet tid) s = .next { s with res0 := 0#32, res1 := 0#32, status := 2#32 }) ∧
      (tid.toNat < s.cfg.ntask → ∃ h : Word, h.toNat = 0x57414B00 + tid.toNat ∧
        exec (.wkGet tid) s = .next { s with res0 := h, res1 := 0#32, status := 0#32 }) ∧
      (∀ h : Word, knownWaker s.cfg h = true ↔
        ∃ t : Byte, exec (.wkGet t) s = .next { s with res0 := h, res1 := 0#32, status := 0#32 }))

/-- R145: EX_NEXT takes the head of RQ and reports TASK for a valid identity and SKIP for any other value, or reports EMPTY;
it writes RQ and the results only. -/
def Obligations.ExNextDequeuesAndValidates : Prop :=
  encode .exNext = some 0x34000000#32 ∧
  ∀ s : State, s.hostReady = true →
    (s.rq = [] → exec .exNext s = .next { s with res0 := 0#32, res1 := 0#32, status := 0#32 }) ∧
    (∀ t ts, s.rq = t :: ts →
      (t.toNat < s.cfg.ntask →
        exec .exNext s = .next { s with rq := ts, res0 := 1#32, res1 := t.zeroExtend 32, status := 0#32 }) ∧
      (s.cfg.ntask ≤ t.toNat →
        exec .exNext s = .next { s with rq := ts, res0 := 2#32, res1 := t.zeroExtend 32, status := 0#32 }))

/-- EX_SLEEP sets SLEEP exactly when RQ is empty, in the same step, and writes nothing else but the results (R146). -/
def Obligations.ExSleepSleepsOnlyOnAnEmptyQueue : Prop :=
  encode .exSleep = some 0x35000000#32 ∧
  ∀ s : State, s.hostReady = true →
    (s.rq = [] → exec .exSleep s = .next { s with sleep := true, res0 := 0#32, res1 := 0#32, status := 0#32 }) ∧
    (s.rq ≠ [] → exec .exSleep s = .next { s with res0 := 0#32, res1 := 0#32, status := 0#32 })

/-- Order of service is strictly FIFO: what a run of WAKE operations appends, a run of as many EX_NEXT operations after the
entries already queued takes out in the same order (R26, R150). -/
def Obligations.WakesLeaveInTheirOrder : Prop :=
  ∀ (s : State) (ts : List Byte), s.hostReady = true → s.rq.length + ts.length ≤ s.cfg.rqCap →
    ∃ u, execAll (ts.map Instr.wake) s = some u ∧ u.rq = s.rq ++ ts ∧
      ∀ n, n < u.rq.length → ∃ v w, execAll (List.replicate n .exNext) u = some v ∧ exec .exNext v = .next w ∧
        ∃ t : Byte, (s.rq ++ ts)[n]? = some t ∧ w.res1 = t.zeroExtend 32 ∧
          w.res0 = (if t.toNat < s.cfg.ntask then 1#32 else 2#32)

/-! ## Status read -/

/-- R157, and R158 for selector 7: what each selector of ST_GET answers, with selector 5 bit by bit for the lines the block
has, what it refuses, and that it changes nothing but the results. -/
def Obligations.StGetAnswersItsSelectors : Prop :=
  ∀ (s : State) (sel sub : Byte),
    encode (.stGet sel sub) = some (0x50000000#32 ||| sub.zeroExtend 32 <<< 16 ||| sel.zeroExtend 32 <<< 8) ∧
    (s.hostReady = true →
      (8 ≤ sel.toNat ∨ (sel.toNat < 6 ∧ sub ≠ 0#8) ∨ (sel.toNat = 6 ∧ s.cfg.nslot ≤ sub.toNat) ∨
        (sel.toNat = 7 ∧ s.cfg.nmbox ≤ sub.toNat) →
        exec (.stGet sel sub) s = .next { s with res0 := 0#32, res1 := 0#32, status := 2#32 }) ∧
      exec (.stGet 0#8 0#8) s = .next { s with res0 := s.cnt, res1 := s.cmp, status := 0#32 } ∧
      exec (.stGet 1#8 0#8) s = .next { s with
        res0 := BitVec.ofNat 32 (s.cf.toNat + 2 * s.cie.toNat + 4 * s.wf.toNat + 8 * s.tken.toNat + 16 * s.exen.toNat),
        res1 := 0#32, status := 0#32 } ∧
      exec (.stGet 2#8 0#8) s = .next { s with res0 := BitVec.ofNat 32 s.heap.length, res1 := 0#32, status := 0#32 } ∧
      (s.heap = [] → exec (.stGet 3#8 0#8) s = .next { s with res0 := 0#32, res1 := 0#32, status := 3#32 }) ∧
      (∀ e, s.heapTop = some e →
        exec (.stGet 3#8 0#8) s = .next { s with res0 := e.d, res1 := e.id.zeroExtend 32, status := 0#32 }) ∧
      exec (.stGet 4#8 0#8) s = .next { s with res0 := BitVec.ofNat 32 s.rq.length, res1 := 0#32, status := 0#32 } ∧
      (s.cfg.wf = true → s.ShapeOk → ∃ a b : Word,
        exec (.stGet 5#8 0#8) s = .next { s with res0 := a, res1 := b, status := 0#32 } ∧
        ∀ l, l < 32 → a.getLsbD l = (decide (l < s.cfg.nline) && decide (s.pinAt l = .high)) ∧
          b.getLsbD l = (decide (l < s.cfg.nline) && s.pendAt l)) ∧
      (sub.toNat < s.cfg.nslot → exec (.stGet 6#8 sub) s = .next { s with
        res0 := (s.slotAt sub.toNat).ws.zeroExtend 32,
        res1 := if (s.slotAt sub.toNat).target = .high then 1#32 else 0#32, status := 0#32 }) ∧
      (sub.toNat < s.cfg.nmbox → exec (.stGet 7#8 sub) s = .next { s with
        res0 := BitVec.ofNat 32 ((s.mboxAt sub.toNat).mbf.toNat + 256 * (s.mboxAt sub.toNat).mbw.toNat),
        res1 := if (s.mboxAt sub.toNat).mbf = true then (s.mboxAt sub.toNat).mbi else 0#32, status := 0#32 }))

/-! ## Rules of the whole machine -/

/-- Who writes the tick unit and the heap: CNT only TICK; CMP, CIE, H only the operations that run `heap_service()`; CF and WF
are set by TICK alone, and cleared by TK_INIT and by SVC_CMP and SVC_WRAP respectively; TKEN is set by TK_INIT and EXEN by
EX_INIT alone, and no instruction clears them (R17 to R22, R24, R28). -/
def Obligations.TimerStateHasItsOnlyWriters : Prop :=
  ∀ (i : Instr) (s t : State), exec i s = .next t →
    (i ≠ .tick → t.cnt = s.cnt) ∧
    (i ≠ .tkInit → (∀ tid, i ≠ .tkPoll tid .init) → i ≠ .svcCmp → i ≠ .svcWrap →
      t.cmp = s.cmp ∧ t.cie = s.cie ∧ t.heap = s.heap) ∧
    (i ≠ .tick → (s.cf = false → t.cf = false) ∧ (s.wf = false → t.wf = false)) ∧
    (i ≠ .tkInit → i ≠ .svcCmp → s.cf = true → t.cf = true) ∧
    (i ≠ .tkInit → i ≠ .svcWrap → s.wf = true → t.wf = true) ∧
    (s.tken = true → t.tken = true) ∧ (s.exen = true → t.exen = true) ∧
    (i ≠ .tkInit → t.tken = s.tken) ∧ (i ≠ .exInit → t.exen = s.exen)

/-- Who writes the edge unit and the mailboxes: PIN only PIN; PEND only PIN and SVC_EDGE; TARGET only EW_SET; WS only
EW_POLL and SVC_EDGE; MBI only MB_SEND; MBW only MB_RECV in phase Init (R32, R33, R35, R36, R37, R38). -/
def Obligations.EdgeAndMailboxStateHaveTheirOnlyWriters : Prop :=
  ∀ (i : Instr) (s t : State), exec i s = .next t →
    ((∀ l v, i ≠ .pin l v) → t.pin = s.pin) ∧
    ((∀ l v, i ≠ .pin l v) → (∀ l, i ≠ .svcEdge l) → t.pend = s.pend) ∧
    ((∀ x v, i ≠ .ewSet x v) → t.slots.map Slot.target = s.slots.map Slot.target) ∧
    ((∀ a b, i ≠ .ewPoll a b) → (∀ l, i ≠ .svcEdge l) → t.slots.map Slot.ws = s.slots.map Slot.ws) ∧
    ((∀ m, i ≠ .mbSend m) → t.mboxes.map Mailbox.mbi = s.mboxes.map Mailbox.mbi) ∧
    ((∀ a m, i ≠ .mbRecv a m .init) → t.mboxes.map Mailbox.mbw = s.mboxes.map Mailbox.mbw)

/-- Who writes the port: no instruction writes ARG or CMD; a service or environment step writes none of CMD, ARG, RES0,
RES1, STATUS; a host operation that ends fatal writes none of RES0, RES1, STATUS; FCAUSE and FINFO change only by the
first raise; the parameters and the agenda are never written (R40, R41, R43, R184, R186). -/
def Obligations.PortStateHasItsOnlyWriters : Prop :=
  ∀ (i : Instr) (s t : State), exec i s = .next t →
    t.arg = s.arg ∧ t.cmd = s.cmd ∧ t.cfg = s.cfg ∧ t.agenda = s.agenda ∧ t.rdata = s.rdata ∧
    (i.isHostOp = false → t.res0 = s.res0 ∧ t.res1 = s.res1 ∧ t.status = s.status) ∧
    (t.fatal = true → t.res0 = s.res0 ∧ t.res1 = s.res1 ∧ t.status = s.status) ∧
    (s.fatal = true → t.fcause = s.fcause ∧ t.finfo = s.finfo) ∧
    (t.fatal = false → t.fcause = s.fcause ∧ t.finfo = s.finfo)

/-- Every step keeps the invariant of the block, from every state that meets it (R23, R27 to R29, R35, R38, R42, R43, R60,
R102, R146). -/
def Obligations.EveryStepKeepsTheInvariant : Prop :=
  ∀ s t : State, s.Inv → step s = .next t → t.Inv

/-- Every step keeps the nearest deadline covered by an armed match or by the next wrap, a TICK where no entry reads as HALF
ticks overdue, as the window premise gives it (R115; R30). -/
def Obligations.EveryStepKeepsTheNearestDeadlineCovered : Prop :=
  ∀ s t : State, s.Inv → (s.agenda.head? = some .tick → s.InWindow) → s.Armed → step s = .next t → t.Armed

/-- A covered deadline is served in time: from a state that covers its nearest deadline, ticks alone enable a timer service
no later than that deadline (R115, R209). -/
def Obligations.TimerServiceIsEnabledByTheNearestDeadline : Prop :=
  ∀ (s : State) (e : Entry), s.Inv → s.tken = true → s.fatal = false → s.heapTop = some e → s.Covered e →
    ∃ n u, n ≤ (tSub s.cfg e.d s.cnt).toNat ∧ ticks n s = some u ∧ (u.svcCmpReady = true ∨ u.svcWrapReady = true)

/-- The premise SVC_LAT bounds the wait of an enabled wrap service: a run without the halt in which it is not taken holds
fewer than SVC_LAT ticks, if it holds any (R214). How the premise of a run is put into Lean is the model's (log 13). -/
def Obligations.LatencyPremiseBoundsTheWrapService : Prop :=
  ∀ (js : List Instr) (s u : State), s.svcWrapReady = true → latencyPremise js s → .svcWrap ∉ js →
    execAll js s = some u → u.fatal = false → 0 < js.count .tick → js.count .tick < s.cfg.svcLat

/-! ## The reference clients -/

/-- R167: the period rule, and the sequence of the worked numbers. -/
def Obligations.NextPeriodFollowsTheWorkedNumbers : Prop :=
  (∀ p, p < 100 → nextPeriod p = 500) ∧ (∀ p, 100 ≤ p → nextPeriod p = p - p / 2) ∧
    nextPeriod 500 = 250 ∧ nextPeriod 250 = 125 ∧ nextPeriod 125 = 63 ∧ nextPeriod 63 = 500 ∧
    (∀ p, 50 ≤ p → p ≤ 500 → 50 ≤ nextPeriod p ∧ nextPeriod p ≤ 500)

/-- One poll of the Button in WaitForPress with the line at the target sends one `Pressed` event, registers the deadline of
the 100-tick window, and returns `Pending` in Debounce (R163, R164, R165). The poll runs with no other agent's step between its
host operations (model's choice, log 16). -/
def Obligations.ButtonSendsOnePressAndStartsTheWindow : Prop :=
  ∀ (s : State) (b : Button), s.Inv → s.hostReady = true → s.tken = true → b.state = .waitForPress →
    s.atTarget 0 = true → s.heap.length < s.cfg.heapCap → s.rq.length + 1 + s.wakeCount ≤ s.cfg.rqCap →
    ∃ (e : Word) (t : State), e.toNat = (s.cnt.toNat + 100) % s.cfg.mod ∧
      Button.poll 0#8 b s = (Button.mk .debounce (WaitRecord.mk .wait e), t) ∧ t.fatal = false ∧
      t.mboxAt 0 = Mailbox.mk true 1#32 (s.mboxAt 0).mbw ∧ Entry.mk e 0#8 ∈ t.heap

/-- A poll of the Button inside the window sends nothing, registers nothing and stays in Debounce, whatever the line does
(R163, R164, R165). The poll runs with no other agent's step between its host operations (model's choice, log 16). -/
def Obligations.ButtonSendsNothingInTheWindow : Prop :=
  ∀ (s : State) (e : Word), s.Inv → s.hostReady = true → s.tken = true → e.toNat < s.cfg.mod →
    elapsed s.cfg e s.cnt = false →
    Button.poll 0#8 (Button.mk .debounce (WaitRecord.mk .wait e)) s = (Button.mk .debounce (WaitRecord.mk .wait e),
      { s with arg := e, cmd := 0x13000001#32, res0 := 2#32, res1 := 0#32, status := 0#32 })

/-- One poll of the LED that takes a `Pressed` event toggles the output once, changes the period by R167 and registers the
deadline of the new period and a new receive (R166, R168). The poll runs with no other agent's step between its host
operations (model's choice, log 16). -/
def Obligations.LedTogglesOnceAndChangesThePeriod : Prop :=
  ∀ (s : State) (l : Led), s.Inv → s.hostReady = true → s.tken = true → 2 ≤ s.cfg.ntask → l.rx = .wait →
    (s.mboxAt 0).mbf = true → (s.mboxAt 0).mbi = 1#32 → nextPeriod l.period ≤ s.cfg.maxDur →
    s.heap.length < s.cfg.heapCap → s.rq.length + s.wakeCount ≤ s.cfg.rqCap →
    ∃ (e : Word) (t : State), e.toNat = (s.cnt.toNat + nextPeriod l.period) % s.cfg.mod ∧
      Led.poll 1#8 l s = (Led.mk .wait (nextPeriod l.period) .wait (WaitRecord.mk .wait e) (!l.led), t) ∧
      t.fatal = false ∧ t.mboxAt 0 = Mailbox.mk false 1#32 1#8 ∧ Entry.mk e 1#8 ∈ t.heap
end

