-- ==== Sys2Proof/Laws/Decode.lean ====
section
/-! SUPPORT. The fields of a packed command word, and a command word from its fields (30_encoding.md R67, R72). -/

namespace Sys2Proof

@[simp] theorem Phase.ofBool_toBool (p : Phase) : Phase.ofBool p.toBool = p := by cases p <;> rfl

@[simp] theorem Phase.toBool_ofBool (b : Bool) : (Phase.ofBool b).toBool = b := by cases b <;> rfl

@[simp] theorem Level.ofBool_toBool (l : Level) : Level.ofBool l.toBool = l := by cases l <;> rfl

@[simp] theorem Level.toBool_ofBool (b : Bool) : (Level.ofBool b).toBool = b := by cases b <;> rfl

@[simp] theorem fieldOpc_packWord (o t i : Byte) (b : Bool) : fieldOpc (packWord o t i b) = o := by
  apply BitVec.eq_of_getLsbD_eq
  intro k hk
  simp only [fieldOpc, packWord, BitVec.getLsbD_extractLsb', BitVec.getLsbD_append]
  have h1 : ¬ (24 + k < 1) := by omega
  have h2 : ¬ (24 + k - 1 < 7) := by omega
  have h3 : ¬ (24 + k - 1 - 7 < 8) := by omega
  have h4 : ¬ (24 + k - 1 - 7 - 8 < 8) := by omega
  have h5 : 24 + k - 1 - 7 - 8 - 8 = k := by omega
  simp only [hk, h1, h2, h3, h4, h5, if_false, decide_true, Bool.true_and]

@[simp] theorem fieldTid_packWord (o t i : Byte) (b : Bool) : fieldTid (packWord o t i b) = t := by
  apply BitVec.eq_of_getLsbD_eq
  intro k hk
  simp only [fieldTid, packWord, BitVec.getLsbD_extractLsb', BitVec.getLsbD_append]
  have h1 : ¬ (16 + k < 1) := by omega
  have h2 : ¬ (16 + k - 1 < 7) := by omega
  have h3 : ¬ (16 + k - 1 - 7 < 8) := by omega
  have h4 : 16 + k - 1 - 7 - 8 = k := by omega
  simp only [hk, h1, h2, h3, h4, if_true, if_false, decide_true, Bool.true_and]

@[simp] theorem fieldIdx_packWord (o t i : Byte) (b : Bool) : fieldIdx (packWord o t i b) = i := by
  apply BitVec.eq_of_getLsbD_eq
  intro k hk
  simp only [fieldIdx, packWord, BitVec.getLsbD_extractLsb', BitVec.getLsbD_append]
  have h1 : ¬ (8 + k < 1) := by omega
  have h2 : ¬ (8 + k - 1 < 7) := by omega
  have h3 : 8 + k - 1 - 7 = k := by omega
  simp only [hk, h1, h2, h3, if_true, if_false, decide_true, Bool.true_and]

@[simp] theorem fieldRsv_packWord (o t i : Byte) (b : Bool) : fieldRsv (packWord o t i b) = 0#7 := by
  apply BitVec.eq_of_getLsbD_eq
  intro k hk
  simp only [fieldRsv, packWord, BitVec.getLsbD_extractLsb', BitVec.getLsbD_append]
  have h1 : ¬ (1 + k < 1) := by omega
  have h2 : 1 + k - 1 < 7 := by omega
  simp only [h1, h2, if_true, if_false]
  simp

@[simp] theorem fieldB_packWord (o t i : Byte) (b : Bool) : fieldB (packWord o t i b) = b := by
  rw [fieldB, packWord, BitVec.getLsbD_append]
  simp

/-- A command word with RSV zero is its fields packed (R67). -/
theorem packWord_fields (w : Word) (h : fieldRsv w = 0#7) :
    packWord (fieldOpc w) (fieldTid w) (fieldIdx w) (fieldB w) = w := by
  apply BitVec.eq_of_getLsbD_eq
  intro k hk
  have hr : ∀ j, j < 7 → w.getLsbD (1 + j) = false := by
    intro j hj
    have := congrArg (fun v => v.getLsbD j) h
    simpa [fieldRsv, BitVec.getLsbD_extractLsb', hj] using this
  simp only [packWord, BitVec.getLsbD_append]
  split
  · have : k = 0 := by omega
    subst this
    simp [fieldB]
  · split
    · have := hr (k - 1) (by omega)
      rw [show 1 + (k - 1) = k by omega] at this
      simp [this]
    · split
      · rw [fieldIdx, BitVec.getLsbD_extractLsb']
        simp [show k - 1 - 7 < 8 by omega, show 8 + (k - 1 - 7) = k by omega]
      · split
        · rw [fieldTid, BitVec.getLsbD_extractLsb']
          simp [show k - 1 - 7 - 8 < 8 by omega, show 16 + (k - 1 - 7 - 8) = k by omega]
        · rw [fieldOpc, BitVec.getLsbD_extractLsb']
          simp [show k - 1 - 7 - 8 - 8 < 8 by omega, show 24 + (k - 1 - 7 - 8 - 8) = k by omega]

/-- Every row is found by its own OPC: the OPC values differ (R72). -/
@[simp] theorem Opcode.ofCode_code (o : Opcode) : Opcode.ofCode o.code = some o := by cases o <;> decide

theorem Opcode.code_of_ofCode (b : Byte) (o : Opcode) (h : Opcode.ofCode b = some o) : o.code = b := by
  have := List.find?_some h
  simpa using this

/-- What the decoder answers, said once (R72 to R74). -/
theorem decode_eq_ok (w : Word) (i : Instr) :
    decode w = .ok i ↔ ∃ o, Opcode.ofCode (fieldOpc w) = some o ∧ o.format.accepts w = true ∧ o.instr w = i := by
  unfold decode
  cases h : Opcode.ofCode (fieldOpc w) with
  | none => simp
  | some o => by_cases ha : o.format.accepts w = true <;> simp [ha]

end Sys2Proof
end

