-- ==== Sys2Proof/Laws/State.lean ====
section
/-! SUPPORT. One lemma for each field of State after each named update of Machine/Ops.lean. -/

namespace Sys2Proof.Machine

/-! ### `State.done` -/

@[simp] theorem State.done_cfg (s : State) (r0 r1 : Word) : (s.done r0 r1).cfg = s.cfg := rfl
@[simp] theorem State.done_cnt (s : State) (r0 r1 : Word) : (s.done r0 r1).cnt = s.cnt := rfl
@[simp] theorem State.done_cmp (s : State) (r0 r1 : Word) : (s.done r0 r1).cmp = s.cmp := rfl
@[simp] theorem State.done_cie (s : State) (r0 r1 : Word) : (s.done r0 r1).cie = s.cie := rfl
@[simp] theorem State.done_cf (s : State) (r0 r1 : Word) : (s.done r0 r1).cf = s.cf := rfl
@[simp] theorem State.done_wf (s : State) (r0 r1 : Word) : (s.done r0 r1).wf = s.wf := rfl
@[simp] theorem State.done_tken (s : State) (r0 r1 : Word) : (s.done r0 r1).tken = s.tken := rfl
@[simp] theorem State.done_heap (s : State) (r0 r1 : Word) : (s.done r0 r1).heap = s.heap := rfl
@[simp] theorem State.done_arrangement (s : State) (r0 r1 : Word) : (s.done r0 r1).arrangement = s.arrangement := rfl
@[simp] theorem State.done_rq (s : State) (r0 r1 : Word) : (s.done r0 r1).rq = s.rq := rfl
@[simp] theorem State.done_exen (s : State) (r0 r1 : Word) : (s.done r0 r1).exen = s.exen := rfl
@[simp] theorem State.done_sleep (s : State) (r0 r1 : Word) : (s.done r0 r1).sleep = s.sleep := rfl
@[simp] theorem State.done_pin (s : State) (r0 r1 : Word) : (s.done r0 r1).pin = s.pin := rfl
@[simp] theorem State.done_pend (s : State) (r0 r1 : Word) : (s.done r0 r1).pend = s.pend := rfl
@[simp] theorem State.done_slots (s : State) (r0 r1 : Word) : (s.done r0 r1).slots = s.slots := rfl
@[simp] theorem State.done_mboxes (s : State) (r0 r1 : Word) : (s.done r0 r1).mboxes = s.mboxes := rfl
@[simp] theorem State.done_cmd (s : State) (r0 r1 : Word) : (s.done r0 r1).cmd = s.cmd := rfl
@[simp] theorem State.done_arg (s : State) (r0 r1 : Word) : (s.done r0 r1).arg = s.arg := rfl
@[simp] theorem State.done_res0 (s : State) (r0 r1 : Word) : (s.done r0 r1).res0 = r0 := rfl
@[simp] theorem State.done_res1 (s : State) (r0 r1 : Word) : (s.done r0 r1).res1 = r1 := rfl
@[simp] theorem State.done_status (s : State) (r0 r1 : Word) : (s.done r0 r1).status = statusWord .ok := rfl
@[simp] theorem State.done_fcause (s : State) (r0 r1 : Word) : (s.done r0 r1).fcause = s.fcause := rfl
@[simp] theorem State.done_finfo (s : State) (r0 r1 : Word) : (s.done r0 r1).finfo = s.finfo := rfl
@[simp] theorem State.done_rdata (s : State) (r0 r1 : Word) : (s.done r0 r1).rdata = s.rdata := rfl
@[simp] theorem State.done_agenda (s : State) (r0 r1 : Word) : (s.done r0 r1).agenda = s.agenda := rfl
@[simp] theorem State.done_fatal (s : State) (r0 r1 : Word) : (s.done r0 r1).fatal = s.fatal := rfl

/-! ### `State.fail` -/

@[simp] theorem State.fail_cfg (s : State) (code : StatusCode) : (s.fail code).cfg = s.cfg := rfl
@[simp] theorem State.fail_cnt (s : State) (code : StatusCode) : (s.fail code).cnt = s.cnt := rfl
@[simp] theorem State.fail_cmp (s : State) (code : StatusCode) : (s.fail code).cmp = s.cmp := rfl
@[simp] theorem State.fail_cie (s : State) (code : StatusCode) : (s.fail code).cie = s.cie := rfl
@[simp] theorem State.fail_cf (s : State) (code : StatusCode) : (s.fail code).cf = s.cf := rfl
@[simp] theorem State.fail_wf (s : State) (code : StatusCode) : (s.fail code).wf = s.wf := rfl
@[simp] theorem State.fail_tken (s : State) (code : StatusCode) : (s.fail code).tken = s.tken := rfl
@[simp] theorem State.fail_heap (s : State) (code : StatusCode) : (s.fail code).heap = s.heap := rfl
@[simp] theorem State.fail_arrangement (s : State) (code : StatusCode) : (s.fail code).arrangement = s.arrangement := rfl
@[simp] theorem State.fail_rq (s : State) (code : StatusCode) : (s.fail code).rq = s.rq := rfl
@[simp] theorem State.fail_exen (s : State) (code : StatusCode) : (s.fail code).exen = s.exen := rfl
@[simp] theorem State.fail_sleep (s : State) (code : StatusCode) : (s.fail code).sleep = s.sleep := rfl
@[simp] theorem State.fail_pin (s : State) (code : StatusCode) : (s.fail code).pin = s.pin := rfl
@[simp] theorem State.fail_pend (s : State) (code : StatusCode) : (s.fail code).pend = s.pend := rfl
@[simp] theorem State.fail_slots (s : State) (code : StatusCode) : (s.fail code).slots = s.slots := rfl
@[simp] theorem State.fail_mboxes (s : State) (code : StatusCode) : (s.fail code).mboxes = s.mboxes := rfl
@[simp] theorem State.fail_cmd (s : State) (code : StatusCode) : (s.fail code).cmd = s.cmd := rfl
@[simp] theorem State.fail_arg (s : State) (code : StatusCode) : (s.fail code).arg = s.arg := rfl
@[simp] theorem State.fail_res0 (s : State) (code : StatusCode) : (s.fail code).res0 = 0#32 := rfl
@[simp] theorem State.fail_res1 (s : State) (code : StatusCode) : (s.fail code).res1 = 0#32 := rfl
@[simp] theorem State.fail_status (s : State) (code : StatusCode) : (s.fail code).status = statusWord code := rfl
@[simp] theorem State.fail_fcause (s : State) (code : StatusCode) : (s.fail code).fcause = s.fcause := rfl
@[simp] theorem State.fail_finfo (s : State) (code : StatusCode) : (s.fail code).finfo = s.finfo := rfl
@[simp] theorem State.fail_rdata (s : State) (code : StatusCode) : (s.fail code).rdata = s.rdata := rfl
@[simp] theorem State.fail_agenda (s : State) (code : StatusCode) : (s.fail code).agenda = s.agenda := rfl
@[simp] theorem State.fail_fatal (s : State) (code : StatusCode) : (s.fail code).fatal = s.fatal := rfl

/-! ### `State.raiseFatal` -/

@[simp] theorem State.raiseFatal_cfg (s : State) (cause : FatalCause) (info : Word) : (s.raiseFatal cause info).cfg = s.cfg := rfl
@[simp] theorem State.raiseFatal_cnt (s : State) (cause : FatalCause) (info : Word) : (s.raiseFatal cause info).cnt = s.cnt := rfl
@[simp] theorem State.raiseFatal_cmp (s : State) (cause : FatalCause) (info : Word) : (s.raiseFatal cause info).cmp = s.cmp := rfl
@[simp] theorem State.raiseFatal_cie (s : State) (cause : FatalCause) (info : Word) : (s.raiseFatal cause info).cie = s.cie := rfl
@[simp] theorem State.raiseFatal_cf (s : State) (cause : FatalCause) (info : Word) : (s.raiseFatal cause info).cf = s.cf := rfl
@[simp] theorem State.raiseFatal_wf (s : State) (cause : FatalCause) (info : Word) : (s.raiseFatal cause info).wf = s.wf := rfl
@[simp] theorem State.raiseFatal_tken (s : State) (cause : FatalCause) (info : Word) : (s.raiseFatal cause info).tken = s.tken := rfl
@[simp] theorem State.raiseFatal_heap (s : State) (cause : FatalCause) (info : Word) : (s.raiseFatal cause info).heap = s.heap := rfl
@[simp] theorem State.raiseFatal_arrangement (s : State) (cause : FatalCause) (info : Word) : (s.raiseFatal cause info).arrangement = s.arrangement := rfl
@[simp] theorem State.raiseFatal_rq (s : State) (cause : FatalCause) (info : Word) : (s.raiseFatal cause info).rq = s.rq := rfl
@[simp] theorem State.raiseFatal_exen (s : State) (cause : FatalCause) (info : Word) : (s.raiseFatal cause info).exen = s.exen := rfl
@[simp] theorem State.raiseFatal_sleep (s : State) (cause : FatalCause) (info : Word) : (s.raiseFatal cause info).sleep = s.sleep := rfl
@[simp] theorem State.raiseFatal_pin (s : State) (cause : FatalCause) (info : Word) : (s.raiseFatal cause info).pin = s.pin := rfl
@[simp] theorem State.raiseFatal_pend (s : State) (cause : FatalCause) (info : Word) : (s.raiseFatal cause info).pend = s.pend := rfl
@[simp] theorem State.raiseFatal_slots (s : State) (cause : FatalCause) (info : Word) : (s.raiseFatal cause info).slots = s.slots := rfl
@[simp] theorem State.raiseFatal_mboxes (s : State) (cause : FatalCause) (info : Word) : (s.raiseFatal cause info).mboxes = s.mboxes := rfl
@[simp] theorem State.raiseFatal_cmd (s : State) (cause : FatalCause) (info : Word) : (s.raiseFatal cause info).cmd = s.cmd := rfl
@[simp] theorem State.raiseFatal_arg (s : State) (cause : FatalCause) (info : Word) : (s.raiseFatal cause info).arg = s.arg := rfl
@[simp] theorem State.raiseFatal_res0 (s : State) (cause : FatalCause) (info : Word) : (s.raiseFatal cause info).res0 = s.res0 := rfl
@[simp] theorem State.raiseFatal_res1 (s : State) (cause : FatalCause) (info : Word) : (s.raiseFatal cause info).res1 = s.res1 := rfl
@[simp] theorem State.raiseFatal_status (s : State) (cause : FatalCause) (info : Word) : (s.raiseFatal cause info).status = s.status := rfl
@[simp] theorem State.raiseFatal_fcause (s : State) (cause : FatalCause) (info : Word) : (s.raiseFatal cause info).fcause = causeWord cause := rfl
@[simp] theorem State.raiseFatal_finfo (s : State) (cause : FatalCause) (info : Word) : (s.raiseFatal cause info).finfo = info := rfl
@[simp] theorem State.raiseFatal_rdata (s : State) (cause : FatalCause) (info : Word) : (s.raiseFatal cause info).rdata = s.rdata := rfl
@[simp] theorem State.raiseFatal_agenda (s : State) (cause : FatalCause) (info : Word) : (s.raiseFatal cause info).agenda = s.agenda := rfl

/-! ### `State.rqAppend` -/

@[simp] theorem State.rqAppend_cfg (s : State) (t : Byte) : (s.rqAppend t).cfg = s.cfg := rfl
@[simp] theorem State.rqAppend_cnt (s : State) (t : Byte) : (s.rqAppend t).cnt = s.cnt := rfl
@[simp] theorem State.rqAppend_cmp (s : State) (t : Byte) : (s.rqAppend t).cmp = s.cmp := rfl
@[simp] theorem State.rqAppend_cie (s : State) (t : Byte) : (s.rqAppend t).cie = s.cie := rfl
@[simp] theorem State.rqAppend_cf (s : State) (t : Byte) : (s.rqAppend t).cf = s.cf := rfl
@[simp] theorem State.rqAppend_wf (s : State) (t : Byte) : (s.rqAppend t).wf = s.wf := rfl
@[simp] theorem State.rqAppend_tken (s : State) (t : Byte) : (s.rqAppend t).tken = s.tken := rfl
@[simp] theorem State.rqAppend_heap (s : State) (t : Byte) : (s.rqAppend t).heap = s.heap := rfl
@[simp] theorem State.rqAppend_arrangement (s : State) (t : Byte) : (s.rqAppend t).arrangement = s.arrangement := rfl
@[simp] theorem State.rqAppend_rq (s : State) (t : Byte) : (s.rqAppend t).rq = s.rq ++ [t] := rfl
@[simp] theorem State.rqAppend_exen (s : State) (t : Byte) : (s.rqAppend t).exen = s.exen := rfl
@[simp] theorem State.rqAppend_sleep (s : State) (t : Byte) : (s.rqAppend t).sleep = s.sleep := rfl
@[simp] theorem State.rqAppend_pin (s : State) (t : Byte) : (s.rqAppend t).pin = s.pin := rfl
@[simp] theorem State.rqAppend_pend (s : State) (t : Byte) : (s.rqAppend t).pend = s.pend := rfl
@[simp] theorem State.rqAppend_slots (s : State) (t : Byte) : (s.rqAppend t).slots = s.slots := rfl
@[simp] theorem State.rqAppend_mboxes (s : State) (t : Byte) : (s.rqAppend t).mboxes = s.mboxes := rfl
@[simp] theorem State.rqAppend_cmd (s : State) (t : Byte) : (s.rqAppend t).cmd = s.cmd := rfl
@[simp] theorem State.rqAppend_arg (s : State) (t : Byte) : (s.rqAppend t).arg = s.arg := rfl
@[simp] theorem State.rqAppend_res0 (s : State) (t : Byte) : (s.rqAppend t).res0 = s.res0 := rfl
@[simp] theorem State.rqAppend_res1 (s : State) (t : Byte) : (s.rqAppend t).res1 = s.res1 := rfl
@[simp] theorem State.rqAppend_status (s : State) (t : Byte) : (s.rqAppend t).status = s.status := rfl
@[simp] theorem State.rqAppend_fcause (s : State) (t : Byte) : (s.rqAppend t).fcause = s.fcause := rfl
@[simp] theorem State.rqAppend_finfo (s : State) (t : Byte) : (s.rqAppend t).finfo = s.finfo := rfl
@[simp] theorem State.rqAppend_rdata (s : State) (t : Byte) : (s.rqAppend t).rdata = s.rdata := rfl
@[simp] theorem State.rqAppend_agenda (s : State) (t : Byte) : (s.rqAppend t).agenda = s.agenda := rfl
@[simp] theorem State.rqAppend_fatal (s : State) (t : Byte) : (s.rqAppend t).fatal = s.fatal := rfl

/-! ### `State.heapPush` -/

@[simp] theorem State.heapPush_cfg (s : State) (e : Entry) : (s.heapPush e).cfg = s.cfg := rfl
@[simp] theorem State.heapPush_cnt (s : State) (e : Entry) : (s.heapPush e).cnt = s.cnt := rfl
@[simp] theorem State.heapPush_cmp (s : State) (e : Entry) : (s.heapPush e).cmp = s.cmp := rfl
@[simp] theorem State.heapPush_cie (s : State) (e : Entry) : (s.heapPush e).cie = s.cie := rfl
@[simp] theorem State.heapPush_cf (s : State) (e : Entry) : (s.heapPush e).cf = s.cf := rfl
@[simp] theorem State.heapPush_wf (s : State) (e : Entry) : (s.heapPush e).wf = s.wf := rfl
@[simp] theorem State.heapPush_tken (s : State) (e : Entry) : (s.heapPush e).tken = s.tken := rfl
@[simp] theorem State.heapPush_heap (s : State) (e : Entry) : (s.heapPush e).heap = heapInsert s.cfg s.cnt s.heap e := rfl
@[simp] theorem State.heapPush_arrangement (s : State) (e : Entry) : (s.heapPush e).arrangement = s.arrangement + 1 := rfl
@[simp] theorem State.heapPush_rq (s : State) (e : Entry) : (s.heapPush e).rq = s.rq := rfl
@[simp] theorem State.heapPush_exen (s : State) (e : Entry) : (s.heapPush e).exen = s.exen := rfl
@[simp] theorem State.heapPush_sleep (s : State) (e : Entry) : (s.heapPush e).sleep = s.sleep := rfl
@[simp] theorem State.heapPush_pin (s : State) (e : Entry) : (s.heapPush e).pin = s.pin := rfl
@[simp] theorem State.heapPush_pend (s : State) (e : Entry) : (s.heapPush e).pend = s.pend := rfl
@[simp] theorem State.heapPush_slots (s : State) (e : Entry) : (s.heapPush e).slots = s.slots := rfl
@[simp] theorem State.heapPush_mboxes (s : State) (e : Entry) : (s.heapPush e).mboxes = s.mboxes := rfl
@[simp] theorem State.heapPush_cmd (s : State) (e : Entry) : (s.heapPush e).cmd = s.cmd := rfl
@[simp] theorem State.heapPush_arg (s : State) (e : Entry) : (s.heapPush e).arg = s.arg := rfl
@[simp] theorem State.heapPush_res0 (s : State) (e : Entry) : (s.heapPush e).res0 = s.res0 := rfl
@[simp] theorem State.heapPush_res1 (s : State) (e : Entry) : (s.heapPush e).res1 = s.res1 := rfl
@[simp] theorem State.heapPush_status (s : State) (e : Entry) : (s.heapPush e).status = s.status := rfl
@[simp] theorem State.heapPush_fcause (s : State) (e : Entry) : (s.heapPush e).fcause = s.fcause := rfl
@[simp] theorem State.heapPush_finfo (s : State) (e : Entry) : (s.heapPush e).finfo = s.finfo := rfl
@[simp] theorem State.heapPush_rdata (s : State) (e : Entry) : (s.heapPush e).rdata = s.rdata := rfl
@[simp] theorem State.heapPush_agenda (s : State) (e : Entry) : (s.heapPush e).agenda = s.agenda := rfl
@[simp] theorem State.heapPush_fatal (s : State) (e : Entry) : (s.heapPush e).fatal = s.fatal := rfl

/-! ### `State.heapPop` -/

@[simp] theorem State.heapPop_cfg (s : State) (e : Entry) : (s.heapPop e).cfg = s.cfg := rfl
@[simp] theorem State.heapPop_cnt (s : State) (e : Entry) : (s.heapPop e).cnt = s.cnt := rfl
@[simp] theorem State.heapPop_cmp (s : State) (e : Entry) : (s.heapPop e).cmp = s.cmp := rfl
@[simp] theorem State.heapPop_cie (s : State) (e : Entry) : (s.heapPop e).cie = s.cie := rfl
@[simp] theorem State.heapPop_cf (s : State) (e : Entry) : (s.heapPop e).cf = s.cf := rfl
@[simp] theorem State.heapPop_wf (s : State) (e : Entry) : (s.heapPop e).wf = s.wf := rfl
@[simp] theorem State.heapPop_tken (s : State) (e : Entry) : (s.heapPop e).tken = s.tken := rfl
@[simp] theorem State.heapPop_heap (s : State) (e : Entry) : (s.heapPop e).heap = heapRemove s.cfg s.cnt s.heap e := rfl
@[simp] theorem State.heapPop_arrangement (s : State) (e : Entry) : (s.heapPop e).arrangement = s.arrangement + 1 := rfl
@[simp] theorem State.heapPop_rq (s : State) (e : Entry) : (s.heapPop e).rq = s.rq := rfl
@[simp] theorem State.heapPop_exen (s : State) (e : Entry) : (s.heapPop e).exen = s.exen := rfl
@[simp] theorem State.heapPop_sleep (s : State) (e : Entry) : (s.heapPop e).sleep = s.sleep := rfl
@[simp] theorem State.heapPop_pin (s : State) (e : Entry) : (s.heapPop e).pin = s.pin := rfl
@[simp] theorem State.heapPop_pend (s : State) (e : Entry) : (s.heapPop e).pend = s.pend := rfl
@[simp] theorem State.heapPop_slots (s : State) (e : Entry) : (s.heapPop e).slots = s.slots := rfl
@[simp] theorem State.heapPop_mboxes (s : State) (e : Entry) : (s.heapPop e).mboxes = s.mboxes := rfl
@[simp] theorem State.heapPop_cmd (s : State) (e : Entry) : (s.heapPop e).cmd = s.cmd := rfl
@[simp] theorem State.heapPop_arg (s : State) (e : Entry) : (s.heapPop e).arg = s.arg := rfl
@[simp] theorem State.heapPop_res0 (s : State) (e : Entry) : (s.heapPop e).res0 = s.res0 := rfl
@[simp] theorem State.heapPop_res1 (s : State) (e : Entry) : (s.heapPop e).res1 = s.res1 := rfl
@[simp] theorem State.heapPop_status (s : State) (e : Entry) : (s.heapPop e).status = s.status := rfl
@[simp] theorem State.heapPop_fcause (s : State) (e : Entry) : (s.heapPop e).fcause = s.fcause := rfl
@[simp] theorem State.heapPop_finfo (s : State) (e : Entry) : (s.heapPop e).finfo = s.finfo := rfl
@[simp] theorem State.heapPop_rdata (s : State) (e : Entry) : (s.heapPop e).rdata = s.rdata := rfl
@[simp] theorem State.heapPop_agenda (s : State) (e : Entry) : (s.heapPop e).agenda = s.agenda := rfl
@[simp] theorem State.heapPop_fatal (s : State) (e : Entry) : (s.heapPop e).fatal = s.fatal := rfl

/-! ### `State.heapClear` -/

@[simp] theorem State.heapClear_cfg (s : State) : s.heapClear.cfg = s.cfg := rfl
@[simp] theorem State.heapClear_cnt (s : State) : s.heapClear.cnt = s.cnt := rfl
@[simp] theorem State.heapClear_cmp (s : State) : s.heapClear.cmp = s.cmp := rfl
@[simp] theorem State.heapClear_cie (s : State) : s.heapClear.cie = s.cie := rfl
@[simp] theorem State.heapClear_cf (s : State) : s.heapClear.cf = s.cf := rfl
@[simp] theorem State.heapClear_wf (s : State) : s.heapClear.wf = s.wf := rfl
@[simp] theorem State.heapClear_tken (s : State) : s.heapClear.tken = s.tken := rfl
@[simp] theorem State.heapClear_heap (s : State) : s.heapClear.heap = [] := rfl
@[simp] theorem State.heapClear_arrangement (s : State) : s.heapClear.arrangement = s.arrangement + 1 := rfl
@[simp] theorem State.heapClear_rq (s : State) : s.heapClear.rq = s.rq := rfl
@[simp] theorem State.heapClear_exen (s : State) : s.heapClear.exen = s.exen := rfl
@[simp] theorem State.heapClear_sleep (s : State) : s.heapClear.sleep = s.sleep := rfl
@[simp] theorem State.heapClear_pin (s : State) : s.heapClear.pin = s.pin := rfl
@[simp] theorem State.heapClear_pend (s : State) : s.heapClear.pend = s.pend := rfl
@[simp] theorem State.heapClear_slots (s : State) : s.heapClear.slots = s.slots := rfl
@[simp] theorem State.heapClear_mboxes (s : State) : s.heapClear.mboxes = s.mboxes := rfl
@[simp] theorem State.heapClear_cmd (s : State) : s.heapClear.cmd = s.cmd := rfl
@[simp] theorem State.heapClear_arg (s : State) : s.heapClear.arg = s.arg := rfl
@[simp] theorem State.heapClear_res0 (s : State) : s.heapClear.res0 = s.res0 := rfl
@[simp] theorem State.heapClear_res1 (s : State) : s.heapClear.res1 = s.res1 := rfl
@[simp] theorem State.heapClear_status (s : State) : s.heapClear.status = s.status := rfl
@[simp] theorem State.heapClear_fcause (s : State) : s.heapClear.fcause = s.fcause := rfl
@[simp] theorem State.heapClear_finfo (s : State) : s.heapClear.finfo = s.finfo := rfl
@[simp] theorem State.heapClear_rdata (s : State) : s.heapClear.rdata = s.rdata := rfl
@[simp] theorem State.heapClear_agenda (s : State) : s.heapClear.agenda = s.agenda := rfl
@[simp] theorem State.heapClear_fatal (s : State) : s.heapClear.fatal = s.fatal := rfl

/-! ### `State.setWs` -/

@[simp] theorem State.setWs_cfg (s : State) (i : Nat) (t : Byte) : (s.setWs i t).cfg = s.cfg := rfl
@[simp] theorem State.setWs_cnt (s : State) (i : Nat) (t : Byte) : (s.setWs i t).cnt = s.cnt := rfl
@[simp] theorem State.setWs_cmp (s : State) (i : Nat) (t : Byte) : (s.setWs i t).cmp = s.cmp := rfl
@[simp] theorem State.setWs_cie (s : State) (i : Nat) (t : Byte) : (s.setWs i t).cie = s.cie := rfl
@[simp] theorem State.setWs_cf (s : State) (i : Nat) (t : Byte) : (s.setWs i t).cf = s.cf := rfl
@[simp] theorem State.setWs_wf (s : State) (i : Nat) (t : Byte) : (s.setWs i t).wf = s.wf := rfl
@[simp] theorem State.setWs_tken (s : State) (i : Nat) (t : Byte) : (s.setWs i t).tken = s.tken := rfl
@[simp] theorem State.setWs_heap (s : State) (i : Nat) (t : Byte) : (s.setWs i t).heap = s.heap := rfl
@[simp] theorem State.setWs_arrangement (s : State) (i : Nat) (t : Byte) : (s.setWs i t).arrangement = s.arrangement := rfl
@[simp] theorem State.setWs_rq (s : State) (i : Nat) (t : Byte) : (s.setWs i t).rq = s.rq := rfl
@[simp] theorem State.setWs_exen (s : State) (i : Nat) (t : Byte) : (s.setWs i t).exen = s.exen := rfl
@[simp] theorem State.setWs_sleep (s : State) (i : Nat) (t : Byte) : (s.setWs i t).sleep = s.sleep := rfl
@[simp] theorem State.setWs_pin (s : State) (i : Nat) (t : Byte) : (s.setWs i t).pin = s.pin := rfl
@[simp] theorem State.setWs_pend (s : State) (i : Nat) (t : Byte) : (s.setWs i t).pend = s.pend := rfl
@[simp] theorem State.setWs_slots (s : State) (i : Nat) (t : Byte) : (s.setWs i t).slots = s.slots.set i { s.slotAt i with ws := t } := rfl
@[simp] theorem State.setWs_mboxes (s : State) (i : Nat) (t : Byte) : (s.setWs i t).mboxes = s.mboxes := rfl
@[simp] theorem State.setWs_cmd (s : State) (i : Nat) (t : Byte) : (s.setWs i t).cmd = s.cmd := rfl
@[simp] theorem State.setWs_arg (s : State) (i : Nat) (t : Byte) : (s.setWs i t).arg = s.arg := rfl
@[simp] theorem State.setWs_res0 (s : State) (i : Nat) (t : Byte) : (s.setWs i t).res0 = s.res0 := rfl
@[simp] theorem State.setWs_res1 (s : State) (i : Nat) (t : Byte) : (s.setWs i t).res1 = s.res1 := rfl
@[simp] theorem State.setWs_status (s : State) (i : Nat) (t : Byte) : (s.setWs i t).status = s.status := rfl
@[simp] theorem State.setWs_fcause (s : State) (i : Nat) (t : Byte) : (s.setWs i t).fcause = s.fcause := rfl
@[simp] theorem State.setWs_finfo (s : State) (i : Nat) (t : Byte) : (s.setWs i t).finfo = s.finfo := rfl
@[simp] theorem State.setWs_rdata (s : State) (i : Nat) (t : Byte) : (s.setWs i t).rdata = s.rdata := rfl
@[simp] theorem State.setWs_agenda (s : State) (i : Nat) (t : Byte) : (s.setWs i t).agenda = s.agenda := rfl
@[simp] theorem State.setWs_fatal (s : State) (i : Nat) (t : Byte) : (s.setWs i t).fatal = s.fatal := rfl

/-! ### `State.setTarget` -/

@[simp] theorem State.setTarget_cfg (s : State) (i : Nat) (v : Level) : (s.setTarget i v).cfg = s.cfg := rfl
@[simp] theorem State.setTarget_cnt (s : State) (i : Nat) (v : Level) : (s.setTarget i v).cnt = s.cnt := rfl
@[simp] theorem State.setTarget_cmp (s : State) (i : Nat) (v : Level) : (s.setTarget i v).cmp = s.cmp := rfl
@[simp] theorem State.setTarget_cie (s : State) (i : Nat) (v : Level) : (s.setTarget i v).cie = s.cie := rfl
@[simp] theorem State.setTarget_cf (s : State) (i : Nat) (v : Level) : (s.setTarget i v).cf = s.cf := rfl
@[simp] theorem State.setTarget_wf (s : State) (i : Nat) (v : Level) : (s.setTarget i v).wf = s.wf := rfl
@[simp] theorem State.setTarget_tken (s : State) (i : Nat) (v : Level) : (s.setTarget i v).tken = s.tken := rfl
@[simp] theorem State.setTarget_heap (s : State) (i : Nat) (v : Level) : (s.setTarget i v).heap = s.heap := rfl
@[simp] theorem State.setTarget_arrangement (s : State) (i : Nat) (v : Level) : (s.setTarget i v).arrangement = s.arrangement := rfl
@[simp] theorem State.setTarget_rq (s : State) (i : Nat) (v : Level) : (s.setTarget i v).rq = s.rq := rfl
@[simp] theorem State.setTarget_exen (s : State) (i : Nat) (v : Level) : (s.setTarget i v).exen = s.exen := rfl
@[simp] theorem State.setTarget_sleep (s : State) (i : Nat) (v : Level) : (s.setTarget i v).sleep = s.sleep := rfl
@[simp] theorem State.setTarget_pin (s : State) (i : Nat) (v : Level) : (s.setTarget i v).pin = s.pin := rfl
@[simp] theorem State.setTarget_pend (s : State) (i : Nat) (v : Level) : (s.setTarget i v).pend = s.pend := rfl
@[simp] theorem State.setTarget_slots (s : State) (i : Nat) (v : Level) : (s.setTarget i v).slots = s.slots.set i { s.slotAt i with target := v } := rfl
@[simp] theorem State.setTarget_mboxes (s : State) (i : Nat) (v : Level) : (s.setTarget i v).mboxes = s.mboxes := rfl
@[simp] theorem State.setTarget_cmd (s : State) (i : Nat) (v : Level) : (s.setTarget i v).cmd = s.cmd := rfl
@[simp] theorem State.setTarget_arg (s : State) (i : Nat) (v : Level) : (s.setTarget i v).arg = s.arg := rfl
@[simp] theorem State.setTarget_res0 (s : State) (i : Nat) (v : Level) : (s.setTarget i v).res0 = s.res0 := rfl
@[simp] theorem State.setTarget_res1 (s : State) (i : Nat) (v : Level) : (s.setTarget i v).res1 = s.res1 := rfl
@[simp] theorem State.setTarget_status (s : State) (i : Nat) (v : Level) : (s.setTarget i v).status = s.status := rfl
@[simp] theorem State.setTarget_fcause (s : State) (i : Nat) (v : Level) : (s.setTarget i v).fcause = s.fcause := rfl
@[simp] theorem State.setTarget_finfo (s : State) (i : Nat) (v : Level) : (s.setTarget i v).finfo = s.finfo := rfl
@[simp] theorem State.setTarget_rdata (s : State) (i : Nat) (v : Level) : (s.setTarget i v).rdata = s.rdata := rfl
@[simp] theorem State.setTarget_agenda (s : State) (i : Nat) (v : Level) : (s.setTarget i v).agenda = s.agenda := rfl
@[simp] theorem State.setTarget_fatal (s : State) (i : Nat) (v : Level) : (s.setTarget i v).fatal = s.fatal := rfl

/-! ### `State.storeItem` -/

@[simp] theorem State.storeItem_cfg (s : State) (i : Nat) (v : Word) : (s.storeItem i v).cfg = s.cfg := rfl
@[simp] theorem State.storeItem_cnt (s : State) (i : Nat) (v : Word) : (s.storeItem i v).cnt = s.cnt := rfl
@[simp] theorem State.storeItem_cmp (s : State) (i : Nat) (v : Word) : (s.storeItem i v).cmp = s.cmp := rfl
@[simp] theorem State.storeItem_cie (s : State) (i : Nat) (v : Word) : (s.storeItem i v).cie = s.cie := rfl
@[simp] theorem State.storeItem_cf (s : State) (i : Nat) (v : Word) : (s.storeItem i v).cf = s.cf := rfl
@[simp] theorem State.storeItem_wf (s : State) (i : Nat) (v : Word) : (s.storeItem i v).wf = s.wf := rfl
@[simp] theorem State.storeItem_tken (s : State) (i : Nat) (v : Word) : (s.storeItem i v).tken = s.tken := rfl
@[simp] theorem State.storeItem_heap (s : State) (i : Nat) (v : Word) : (s.storeItem i v).heap = s.heap := rfl
@[simp] theorem State.storeItem_arrangement (s : State) (i : Nat) (v : Word) : (s.storeItem i v).arrangement = s.arrangement := rfl
@[simp] theorem State.storeItem_rq (s : State) (i : Nat) (v : Word) : (s.storeItem i v).rq = s.rq := rfl
@[simp] theorem State.storeItem_exen (s : State) (i : Nat) (v : Word) : (s.storeItem i v).exen = s.exen := rfl
@[simp] theorem State.storeItem_sleep (s : State) (i : Nat) (v : Word) : (s.storeItem i v).sleep = s.sleep := rfl
@[simp] theorem State.storeItem_pin (s : State) (i : Nat) (v : Word) : (s.storeItem i v).pin = s.pin := rfl
@[simp] theorem State.storeItem_pend (s : State) (i : Nat) (v : Word) : (s.storeItem i v).pend = s.pend := rfl
@[simp] theorem State.storeItem_slots (s : State) (i : Nat) (v : Word) : (s.storeItem i v).slots = s.slots := rfl
@[simp] theorem State.storeItem_mboxes (s : State) (i : Nat) (v : Word) : (s.storeItem i v).mboxes = s.mboxes.set i { s.mboxAt i with mbi := v, mbf := true } := rfl
@[simp] theorem State.storeItem_cmd (s : State) (i : Nat) (v : Word) : (s.storeItem i v).cmd = s.cmd := rfl
@[simp] theorem State.storeItem_arg (s : State) (i : Nat) (v : Word) : (s.storeItem i v).arg = s.arg := rfl
@[simp] theorem State.storeItem_res0 (s : State) (i : Nat) (v : Word) : (s.storeItem i v).res0 = s.res0 := rfl
@[simp] theorem State.storeItem_res1 (s : State) (i : Nat) (v : Word) : (s.storeItem i v).res1 = s.res1 := rfl
@[simp] theorem State.storeItem_status (s : State) (i : Nat) (v : Word) : (s.storeItem i v).status = s.status := rfl
@[simp] theorem State.storeItem_fcause (s : State) (i : Nat) (v : Word) : (s.storeItem i v).fcause = s.fcause := rfl
@[simp] theorem State.storeItem_finfo (s : State) (i : Nat) (v : Word) : (s.storeItem i v).finfo = s.finfo := rfl
@[simp] theorem State.storeItem_rdata (s : State) (i : Nat) (v : Word) : (s.storeItem i v).rdata = s.rdata := rfl
@[simp] theorem State.storeItem_agenda (s : State) (i : Nat) (v : Word) : (s.storeItem i v).agenda = s.agenda := rfl
@[simp] theorem State.storeItem_fatal (s : State) (i : Nat) (v : Word) : (s.storeItem i v).fatal = s.fatal := rfl

/-! ### `State.takeItem` -/

@[simp] theorem State.takeItem_cfg (s : State) (i : Nat) : (s.takeItem i).cfg = s.cfg := rfl
@[simp] theorem State.takeItem_cnt (s : State) (i : Nat) : (s.takeItem i).cnt = s.cnt := rfl
@[simp] theorem State.takeItem_cmp (s : State) (i : Nat) : (s.takeItem i).cmp = s.cmp := rfl
@[simp] theorem State.takeItem_cie (s : State) (i : Nat) : (s.takeItem i).cie = s.cie := rfl
@[simp] theorem State.takeItem_cf (s : State) (i : Nat) : (s.takeItem i).cf = s.cf := rfl
@[simp] theorem State.takeItem_wf (s : State) (i : Nat) : (s.takeItem i).wf = s.wf := rfl
@[simp] theorem State.takeItem_tken (s : State) (i : Nat) : (s.takeItem i).tken = s.tken := rfl
@[simp] theorem State.takeItem_heap (s : State) (i : Nat) : (s.takeItem i).heap = s.heap := rfl
@[simp] theorem State.takeItem_arrangement (s : State) (i : Nat) : (s.takeItem i).arrangement = s.arrangement := rfl
@[simp] theorem State.takeItem_rq (s : State) (i : Nat) : (s.takeItem i).rq = s.rq := rfl
@[simp] theorem State.takeItem_exen (s : State) (i : Nat) : (s.takeItem i).exen = s.exen := rfl
@[simp] theorem State.takeItem_sleep (s : State) (i : Nat) : (s.takeItem i).sleep = s.sleep := rfl
@[simp] theorem State.takeItem_pin (s : State) (i : Nat) : (s.takeItem i).pin = s.pin := rfl
@[simp] theorem State.takeItem_pend (s : State) (i : Nat) : (s.takeItem i).pend = s.pend := rfl
@[simp] theorem State.takeItem_slots (s : State) (i : Nat) : (s.takeItem i).slots = s.slots := rfl
@[simp] theorem State.takeItem_mboxes (s : State) (i : Nat) : (s.takeItem i).mboxes = s.mboxes.set i { s.mboxAt i with mbf := false } := rfl
@[simp] theorem State.takeItem_cmd (s : State) (i : Nat) : (s.takeItem i).cmd = s.cmd := rfl
@[simp] theorem State.takeItem_arg (s : State) (i : Nat) : (s.takeItem i).arg = s.arg := rfl
@[simp] theorem State.takeItem_res0 (s : State) (i : Nat) : (s.takeItem i).res0 = s.res0 := rfl
@[simp] theorem State.takeItem_res1 (s : State) (i : Nat) : (s.takeItem i).res1 = s.res1 := rfl
@[simp] theorem State.takeItem_status (s : State) (i : Nat) : (s.takeItem i).status = s.status := rfl
@[simp] theorem State.takeItem_fcause (s : State) (i : Nat) : (s.takeItem i).fcause = s.fcause := rfl
@[simp] theorem State.takeItem_finfo (s : State) (i : Nat) : (s.takeItem i).finfo = s.finfo := rfl
@[simp] theorem State.takeItem_rdata (s : State) (i : Nat) : (s.takeItem i).rdata = s.rdata := rfl
@[simp] theorem State.takeItem_agenda (s : State) (i : Nat) : (s.takeItem i).agenda = s.agenda := rfl
@[simp] theorem State.takeItem_fatal (s : State) (i : Nat) : (s.takeItem i).fatal = s.fatal := rfl

/-! ### `State.setMbw` -/

@[simp] theorem State.setMbw_cfg (s : State) (i : Nat) (t : Byte) : (s.setMbw i t).cfg = s.cfg := rfl
@[simp] theorem State.setMbw_cnt (s : State) (i : Nat) (t : Byte) : (s.setMbw i t).cnt = s.cnt := rfl
@[simp] theorem State.setMbw_cmp (s : State) (i : Nat) (t : Byte) : (s.setMbw i t).cmp = s.cmp := rfl
@[simp] theorem State.setMbw_cie (s : State) (i : Nat) (t : Byte) : (s.setMbw i t).cie = s.cie := rfl
@[simp] theorem State.setMbw_cf (s : State) (i : Nat) (t : Byte) : (s.setMbw i t).cf = s.cf := rfl
@[simp] theorem State.setMbw_wf (s : State) (i : Nat) (t : Byte) : (s.setMbw i t).wf = s.wf := rfl
@[simp] theorem State.setMbw_tken (s : State) (i : Nat) (t : Byte) : (s.setMbw i t).tken = s.tken := rfl
@[simp] theorem State.setMbw_heap (s : State) (i : Nat) (t : Byte) : (s.setMbw i t).heap = s.heap := rfl
@[simp] theorem State.setMbw_arrangement (s : State) (i : Nat) (t : Byte) : (s.setMbw i t).arrangement = s.arrangement := rfl
@[simp] theorem State.setMbw_rq (s : State) (i : Nat) (t : Byte) : (s.setMbw i t).rq = s.rq := rfl
@[simp] theorem State.setMbw_exen (s : State) (i : Nat) (t : Byte) : (s.setMbw i t).exen = s.exen := rfl
@[simp] theorem State.setMbw_sleep (s : State) (i : Nat) (t : Byte) : (s.setMbw i t).sleep = s.sleep := rfl
@[simp] theorem State.setMbw_pin (s : State) (i : Nat) (t : Byte) : (s.setMbw i t).pin = s.pin := rfl
@[simp] theorem State.setMbw_pend (s : State) (i : Nat) (t : Byte) : (s.setMbw i t).pend = s.pend := rfl
@[simp] theorem State.setMbw_slots (s : State) (i : Nat) (t : Byte) : (s.setMbw i t).slots = s.slots := rfl
@[simp] theorem State.setMbw_mboxes (s : State) (i : Nat) (t : Byte) : (s.setMbw i t).mboxes = s.mboxes.set i { s.mboxAt i with mbw := t } := rfl
@[simp] theorem State.setMbw_cmd (s : State) (i : Nat) (t : Byte) : (s.setMbw i t).cmd = s.cmd := rfl
@[simp] theorem State.setMbw_arg (s : State) (i : Nat) (t : Byte) : (s.setMbw i t).arg = s.arg := rfl
@[simp] theorem State.setMbw_res0 (s : State) (i : Nat) (t : Byte) : (s.setMbw i t).res0 = s.res0 := rfl
@[simp] theorem State.setMbw_res1 (s : State) (i : Nat) (t : Byte) : (s.setMbw i t).res1 = s.res1 := rfl
@[simp] theorem State.setMbw_status (s : State) (i : Nat) (t : Byte) : (s.setMbw i t).status = s.status := rfl
@[simp] theorem State.setMbw_fcause (s : State) (i : Nat) (t : Byte) : (s.setMbw i t).fcause = s.fcause := rfl
@[simp] theorem State.setMbw_finfo (s : State) (i : Nat) (t : Byte) : (s.setMbw i t).finfo = s.finfo := rfl
@[simp] theorem State.setMbw_rdata (s : State) (i : Nat) (t : Byte) : (s.setMbw i t).rdata = s.rdata := rfl
@[simp] theorem State.setMbw_agenda (s : State) (i : Nat) (t : Byte) : (s.setMbw i t).agenda = s.agenda := rfl
@[simp] theorem State.setMbw_fatal (s : State) (i : Nat) (t : Byte) : (s.setMbw i t).fatal = s.fatal := rfl

/-! ### `State.resetInput` -/

@[simp] theorem State.resetInput_cfg (s : State) : s.resetInput.cfg = s.cfg := rfl
@[simp] theorem State.resetInput_cnt (s : State) : s.resetInput.cnt = BitVec.ofNat 32 s.cfg.cntReset := rfl
@[simp] theorem State.resetInput_cmp (s : State) : s.resetInput.cmp = 0#32 := rfl
@[simp] theorem State.resetInput_cie (s : State) : s.resetInput.cie = false := rfl
@[simp] theorem State.resetInput_cf (s : State) : s.resetInput.cf = false := rfl
@[simp] theorem State.resetInput_wf (s : State) : s.resetInput.wf = false := rfl
@[simp] theorem State.resetInput_tken (s : State) : s.resetInput.tken = false := rfl
@[simp] theorem State.resetInput_heap (s : State) : s.resetInput.heap = [] := rfl
@[simp] theorem State.resetInput_arrangement (s : State) : s.resetInput.arrangement = s.arrangement + 1 := rfl
@[simp] theorem State.resetInput_rq (s : State) : s.resetInput.rq = [] := rfl
@[simp] theorem State.resetInput_exen (s : State) : s.resetInput.exen = false := rfl
@[simp] theorem State.resetInput_sleep (s : State) : s.resetInput.sleep = false := rfl
@[simp] theorem State.resetInput_pin (s : State) : s.resetInput.pin = s.cfg.pinReset := rfl
@[simp] theorem State.resetInput_pend (s : State) : s.resetInput.pend = List.replicate s.cfg.nline false := rfl
@[simp] theorem State.resetInput_slots (s : State) : s.resetInput.slots = List.replicate s.cfg.nslot (Slot.mk noTask Level.low) := rfl
@[simp] theorem State.resetInput_mboxes (s : State) : s.resetInput.mboxes = List.replicate s.cfg.nmbox (Mailbox.mk false 0#32 noTask) := rfl
@[simp] theorem State.resetInput_cmd (s : State) : s.resetInput.cmd = 0#32 := rfl
@[simp] theorem State.resetInput_arg (s : State) : s.resetInput.arg = 0#32 := rfl
@[simp] theorem State.resetInput_res0 (s : State) : s.resetInput.res0 = 0#32 := rfl
@[simp] theorem State.resetInput_res1 (s : State) : s.resetInput.res1 = 0#32 := rfl
@[simp] theorem State.resetInput_status (s : State) : s.resetInput.status = 0#32 := rfl
@[simp] theorem State.resetInput_fcause (s : State) : s.resetInput.fcause = 0#32 := rfl
@[simp] theorem State.resetInput_finfo (s : State) : s.resetInput.finfo = 0#32 := rfl
@[simp] theorem State.resetInput_rdata (s : State) : s.resetInput.rdata = s.rdata := rfl
@[simp] theorem State.resetInput_agenda (s : State) : s.resetInput.agenda = s.agenda := rfl

@[simp] theorem State.raiseFatal_fatal (s : State) (cause : FatalCause) (info : Word) :
    (s.raiseFatal cause info).fatal = true := by cases cause <;> rfl

@[simp] theorem State.resetInput_fatal (s : State) : s.resetInput.fatal = false := rfl

end Sys2Proof.Machine
end

