-- ==== Sys2Proof/Laws/Tick.lean ====
section
/-! SUPPORT. Laws of the tick arithmetic (41_ticker.md R91 to R95), for counters of at most 32 bits. -/

namespace Sys2Proof.Machine

theorem mod_pos (c : Config) : 0 < c.mod := Nat.pow_pos (by decide)

theorem half_pos (c : Config) : 0 < c.half := Nat.pow_pos (by decide)

theorem mod_le (c : Config) (h : c.tickW ≤ 32) : c.mod ≤ 2 ^ 32 := Nat.pow_le_pow_right (by decide) h

theorem mod_eq_two_half (c : Config) (h : 1 ≤ c.tickW) : c.mod = 2 * c.half := by
  unfold Config.mod Config.half
  obtain ⟨w, hw⟩ : ∃ w, c.tickW = w + 1 := ⟨c.tickW - 1, by omega⟩
  rw [hw, Nat.pow_succ, Nat.add_sub_cancel, Nat.mul_comm]

/-- What a well-formed configuration says of its widths. -/
theorem wf_tickW (c : Config) (h : c.wf = true) : 8 ≤ c.tickW ∧ c.tickW ≤ 32 := by
  simp [Config.wf, Config.tickWOk] at h
  omega

theorem wf_mod_le (c : Config) (h : c.wf = true) : c.mod ≤ 2 ^ 32 := mod_le c (wf_tickW c h).2

theorem wf_mod_eq (c : Config) (h : c.wf = true) : c.mod = 2 * c.half := mod_eq_two_half c (by have := wf_tickW c h; omega)

theorem tAdd_toNat (c : Config) (h : c.mod ≤ 2 ^ 32) (a b : Word) : (tAdd c a b).toNat = (a.toNat + b.toNat) % c.mod := by
  have := Nat.mod_lt (a.toNat + b.toNat) (mod_pos c)
  simp only [tAdd, BitVec.toNat_ofNat]
  exact Nat.mod_eq_of_lt (by omega)

theorem tAdd_lt (c : Config) (h : c.mod ≤ 2 ^ 32) (a b : Word) : (tAdd c a b).toNat < c.mod := by
  rw [tAdd_toNat c h]
  exact Nat.mod_lt _ (mod_pos c)

theorem tSub_toNat (c : Config) (h : c.mod ≤ 2 ^ 32) (a b : Word) :
    ((tSub c a b).toNat : Int) = ((a.toNat : Int) - (b.toNat : Int)) % (c.mod : Int) := by
  have hp : (0 : Int) < (c.mod : Int) := by exact_mod_cast mod_pos c
  have h0 := Int.emod_nonneg ((a.toNat : Int) - (b.toNat : Int)) (ne_of_gt hp)
  have h1 := Int.emod_lt_of_pos ((a.toNat : Int) - (b.toNat : Int)) hp
  simp only [tSub, BitVec.toNat_ofInt]
  rw [Int.toNat_of_nonneg (Int.emod_nonneg _ (by decide))]
  apply Int.emod_eq_of_lt h0
  have : (c.mod : Int) ≤ 2 ^ 32 := by exact_mod_cast h
  norm_num at this ⊢
  omega

theorem tSub_lt (c : Config) (h : c.mod ≤ 2 ^ 32) (a b : Word) : (tSub c a b).toNat < c.mod := by
  have hp : (0 : Int) < (c.mod : Int) := by exact_mod_cast mod_pos c
  have := tSub_toNat c h a b
  have h1 := Int.emod_lt_of_pos ((a.toNat : Int) - (b.toNat : Int)) hp
  omega

/-- `a -t b` for b up to a is the plain difference (R91). -/
theorem tSub_of_le (c : Config) (h : c.mod ≤ 2 ^ 32) (a b : Word) (ha : a.toNat < c.mod) (hb : b.toNat ≤ a.toNat) :
    (tSub c a b).toNat = a.toNat - b.toNat := by
  have := tSub_toNat c h a b
  rw [Int.emod_eq_of_lt (by omega) (by omega)] at this
  omega

/-- `a -t b` for a < b is MOD - (b - a) (R91). -/
theorem tSub_of_lt (c : Config) (h : c.mod ≤ 2 ^ 32) (a b : Word) (hb : b.toNat < c.mod) (hab : a.toNat < b.toNat) :
    (tSub c a b).toNat = c.mod - (b.toNat - a.toNat) := by
  have := tSub_toNat c h a b
  rw [← Int.add_emod_right, Int.emod_eq_of_lt (by omega) (by omega)] at this
  omega

/-- The two cases of `a -t b` on tick values. -/
theorem tSub_cases (c : Config) (h : c.mod ≤ 2 ^ 32) (a b : Word) (ha : a.toNat < c.mod) (hb : b.toNat < c.mod) :
    (b.toNat ≤ a.toNat ∧ (tSub c a b).toNat = a.toNat - b.toNat) ∨
      (a.toNat < b.toNat ∧ (tSub c a b).toNat = c.mod - (b.toNat - a.toNat)) := by
  rcases Nat.lt_or_ge a.toNat b.toNat with hab | hab
  · exact .inr ⟨hab, tSub_of_lt c h a b hb hab⟩
  · exact .inl ⟨hab, tSub_of_le c h a b ha hab⟩

/-- sdist is at least -HALF and below HALF (R94). -/
theorem sdist_range (c : Config) (h : c.wf = true) (d now : Word) :
    -(c.half : Int) ≤ sdist c d now ∧ sdist c d now < (c.half : Int) := by
  have h1 := tSub_lt c (wf_mod_le c h) d now
  have h2 := wf_mod_eq c h
  unfold sdist
  split <;> omega

/-- `elapsed(d, now)` is the same as sdist(d, now) <= 0 except at sdist = -HALF (R94). -/
theorem elapsed_iff (c : Config) (h : c.wf = true) (d now : Word) (hd : d.toNat < c.mod) (hn : now.toNat < c.mod) :
    elapsed c d now = true ↔ sdist c d now ≤ 0 ∧ sdist c d now ≠ -(c.half : Int) := by
  have h2 := wf_mod_eq c h
  have hp := half_pos c
  have hm := wf_mod_le c h
  simp only [elapsed, decide_eq_true_eq]
  unfold sdist
  rcases tSub_cases c hm now d hn hd with ⟨_, e⟩ | ⟨_, e⟩ <;> rcases tSub_cases c hm d now hd hn with ⟨_, e'⟩ | ⟨_, e'⟩ <;>
    split <;> omega

/-- A deadline equal to now has elapsed (R95 (a)). -/
theorem elapsed_self (c : Config) (h : c.mod ≤ 2 ^ 32) (d : Word) (hd : d.toNat < c.mod) : elapsed c d d = true := by
  have := tSub_of_le c h d d hd (Nat.le_refl _)
  have := half_pos c
  simp [elapsed]
  omega

/-- `until < room` says that the deadline is above now as an unsigned number, for a deadline other than now (R102). -/
theorem beforeWrap_iff (c : Config) (h : c.mod ≤ 2 ^ 32) (d now : Word) (hd : d.toNat < c.mod) (hn : now.toNat < c.mod)
    (hne : d ≠ now) : beforeWrap c d now = true ↔ now.toNat < d.toNat := by
  have hne' : d.toNat ≠ now.toNat := fun e => hne (BitVec.eq_of_toNat_eq e)
  simp only [beforeWrap, decide_eq_true_eq]
  rcases tSub_cases c h d now hd hn with ⟨_, e⟩ | ⟨_, e⟩ <;> omega

/-- Equal signed distances are equal deadlines. -/
theorem sdist_inj (c : Config) (h : c.wf = true) (d d' now : Word) (hd : d.toNat < c.mod) (hd' : d'.toNat < c.mod)
    (hn : now.toNat < c.mod) (he : sdist c d now = sdist c d' now) : d = d' := by
  have hm := wf_mod_le c h
  have h2 := wf_mod_eq c h
  have hl := tSub_lt c hm d now
  have hl' := tSub_lt c hm d' now
  apply BitVec.eq_of_toNat_eq
  unfold sdist at he
  rcases tSub_cases c hm d now hd hn with ⟨_, e⟩ | ⟨_, e⟩ <;> rcases tSub_cases c hm d' now hd' hn with ⟨_, e'⟩ | ⟨_, e'⟩ <;>
    split at he <;> split at he <;> omega

/-- The value an operand stands for is a tick value (R69). -/
theorem instantOf_lt (c : Config) (h : c.mod ≤ 2 ^ 32) (v : Word) : (instantOf c v).toNat < c.mod := by
  have := Nat.mod_lt v.toNat (mod_pos c)
  simp only [instantOf, BitVec.toNat_ofNat]
  rwa [Nat.mod_eq_of_lt (by omega)]

/-- An operand below MOD stands for itself (R69). -/
theorem instantOf_self (c : Config) (v : Word) (h : v.toNat < c.mod) : instantOf c v = v := by
  apply BitVec.eq_of_toNat_eq
  simp [instantOf, Nat.mod_eq_of_lt h]

/-- A heartbeat entry has not elapsed at the tick it is placed, and lies ahead of it (R11, R101). -/
theorem heartbeat_not_elapsed (c : Config) (h : c.wf = true) (now : Word) (hn : now.toNat < c.mod) :
    elapsed c (tAdd c now (heartbeatTicks c)) now = false := by
  have hm := wf_mod_le c h
  have h2 := wf_mod_eq c h
  have hb : 1 ≤ c.heartbeat ∧ c.heartbeat ≤ c.half - 1 := by
    simp only [Config.wf, Config.heartbeatOk, Config.maxDur, Bool.and_eq_true, decide_eq_true_eq] at h
    exact ⟨h.1.2.1, of_decide_eq_true h.1.2.2⟩
  have hh : (heartbeatTicks c).toNat = c.heartbeat := by
    simp only [heartbeatTicks, BitVec.toNat_ofNat]
    exact Nat.mod_eq_of_lt (by omega)
  have ha := tAdd_toNat c hm now (heartbeatTicks c)
  have hl := tAdd_lt c hm now (heartbeatTicks c)
  simp only [elapsed, decide_eq_false_iff_not, Nat.not_lt]
  rw [hh] at ha
  have : (now.toNat + c.heartbeat) % c.mod = now.toNat + c.heartbeat ∨
      (c.mod ≤ now.toNat + c.heartbeat ∧
        (now.toNat + c.heartbeat) % c.mod = now.toNat + c.heartbeat - c.mod) := by
    rcases Nat.lt_or_ge (now.toNat + c.heartbeat) c.mod with hlt | hge
    · exact .inl (Nat.mod_eq_of_lt hlt)
    · refine .inr ⟨hge, ?_⟩
      rw [Nat.mod_eq_sub_mod hge]
      exact Nat.mod_eq_of_lt (by omega)
  rw [← ha] at this
  rcases tSub_cases c hm now (tAdd c now (heartbeatTicks c)) hn hl with ⟨_, e⟩ | ⟨_, e⟩ <;> omega

/-- One tick takes a signed distance down by one, as long as it is above -HALF (R30). -/
theorem sdist_tick (c : Config) (h : c.wf = true) (d now : Word) (hd : d.toNat < c.mod) (hn : now.toNat < c.mod)
    (hw : -(c.half : Int) < sdist c d now) : sdist c d (tAdd c now 1#32) = sdist c d now - 1 := by
  have hm := wf_mod_le c h
  have h2 := wf_mod_eq c h
  have hl := tAdd_lt c hm now 1#32
  have ha := tAdd_toNat c hm now 1#32
  have h1 : (1#32 : Word).toNat = 1 := rfl
  rw [h1] at ha
  have hc : (now.toNat + 1 < c.mod ∧ (tAdd c now 1#32).toNat = now.toNat + 1) ∨
      (now.toNat + 1 = c.mod ∧ (tAdd c now 1#32).toNat = 0) := by
    rcases Nat.lt_or_ge (now.toNat + 1) c.mod with hlt | hge
    · exact .inl ⟨hlt, by rw [ha, Nat.mod_eq_of_lt hlt]⟩
    · have he : now.toNat + 1 = c.mod := by omega
      exact .inr ⟨he, by rw [ha, he, Nat.mod_self]⟩
  unfold sdist at hw ⊢
  rcases tSub_cases c hm d now hd hn with ⟨_, e⟩ | ⟨_, e⟩ <;>
    rcases tSub_cases c hm d (tAdd c now 1#32) hd hl with ⟨_, e'⟩ | ⟨_, e'⟩ <;>
    split at hw <;> split <;> omega

end Sys2Proof.Machine
end

