-- ==== Sys2Proof/Laws/Heap.lean ====
section
/-! SUPPORT. Laws of the deadline heap: insertion and removal change the multiset by one entry under either election, and
the top is a member of minimal signed distance (41_ticker.md R96 to R100). -/

namespace Sys2Proof.Machine

theorem swapAt_perm (a : List Entry) (i j : Nat) : (swapAt a i j).Perm a := by
  unfold swapAt
  split
  · rename_i x y hi hj
    obtain ⟨hi', rfl⟩ := List.getElem?_eq_some_iff.mp hi
    obtain ⟨hj', rfl⟩ := List.getElem?_eq_some_iff.mp hj
    exact List.set_set_perm hi' hj'
  · exact .refl _

theorem siftUp_perm (c : Config) (now : Word) (n i : Nat) (a : List Entry) : (siftUp c now n i a).Perm a := by
  induction n generalizing i a with
  | zero => exact .refl _
  | succ n ih =>
    unfold siftUp
    split
    · exact (ih _ _).trans (swapAt_perm _ _ _)
    · exact .refl _

theorem siftDown_perm (c : Config) (now : Word) (n i : Nat) (a : List Entry) : (siftDown c now n i a).Perm a := by
  induction n generalizing i a with
  | zero => exact .refl _
  | succ n ih =>
    unfold siftDown
    split
    · exact .refl _
    · exact (ih _ _).trans (swapAt_perm _ _ _)

/-- `heap_push`: H gains the entry (R96). -/
theorem heapInsert_perm (c : Config) (now : Word) (h : List Entry) (e : Entry) : (heapInsert c now h e).Perm (e :: h) := by
  unfold heapInsert
  split
  · exact List.perm_append_singleton e h
  · exact (siftUp_perm _ _ _ _ _).trans (List.perm_append_singleton e h)

theorem arrayPop_perm (c : Config) (now : Word) (e : Entry) (h : List Entry) : (arrayPop c now (e :: h)).Perm h := by
  cases h with
  | nil => exact .refl _
  | cons b rest =>
    refine (siftDown_perm _ _ _ _ _).trans ?_
    have h1 := List.perm_append_singleton ((b :: rest).getLast (by simp)) (b :: rest).dropLast
    rw [List.dropLast_append_getLast] at h1
    exact h1.symm

/-- `heap_pop`: H loses the entry (R97). -/
theorem heapRemove_perm (c : Config) (now : Word) (h : List Entry) (e : Entry) (he : e ∈ h) :
    (e :: heapRemove c now h e).Perm h := by
  unfold heapRemove
  split
  · exact (List.perm_cons_erase he).symm
  · split
    · rename_i hh
      cases h with
      | nil => cases hh
      | cons b rest =>
        cases hh
        exact (arrayPop_perm _ _ _ _).cons _
    · exact (List.perm_cons_erase he).symm

theorem heapInsert_length (c : Config) (now : Word) (h : List Entry) (e : Entry) :
    (heapInsert c now h e).length = h.length + 1 := (heapInsert_perm c now h e).length_eq

theorem heapRemove_length (c : Config) (now : Word) (h : List Entry) (e : Entry) (he : e ∈ h) :
    (heapRemove c now h e).length + 1 = h.length := (heapRemove_perm c now h e he).length_eq

theorem mem_heapInsert (c : Config) (now : Word) (h : List Entry) (e x : Entry) :
    x ∈ heapInsert c now h e ↔ x = e ∨ x ∈ h := by
  rw [(heapInsert_perm c now h e).mem_iff, List.mem_cons]

/-- The candidates of the election are the members of minimal signed distance (R98). -/
theorem mem_nearest (c : Config) (now : Word) (h : List Entry) (e : Entry) :
    e ∈ nearest c now h ↔ e ∈ h ∧ ∀ e' ∈ h, sdist c e.d now ≤ sdist c e'.d now := by
  simp [nearest]

theorem nearest_ne_nil (c : Config) (now : Word) (h : List Entry) (hh : h ≠ []) : nearest c now h ≠ [] := by
  obtain ⟨a, ha⟩ := List.exists_mem_of_ne_nil h hh
  obtain ⟨e, he, hm⟩ := h.toFinset.exists_min_image (fun e => sdist c e.d now) ⟨a, by simpa using ha⟩
  exact List.ne_nil_of_mem ((mem_nearest c now h e).mpr ⟨by simpa using he, fun e' he' => hm e' (by simpa using he')⟩)

theorem freeElection_mem (n : Nat) (h : List Entry) (now : Word) (es : List Entry) (hes : es ≠ []) :
    ∃ e ∈ es, freeElection n h now es = some e := by
  have hl : 0 < es.length := List.length_pos_of_ne_nil hes
  have hlt := Nat.mod_lt (Config.heapTie n h now) hl
  exact ⟨es[Config.heapTie n h now % es.length], List.getElem_mem hlt, List.getElem?_eq_getElem hlt⟩

theorem electTop_mem (c : Config) (n : Nat) (h : List Entry) (now : Word) (es : List Entry) (hes : es ≠ []) :
    ∃ e ∈ es, electTop c n h now es = some e := by
  unfold electTop
  split
  · split
    · exact ⟨_, ‹_›, rfl⟩
    · exact freeElection_mem n h now es hes
  · exact freeElection_mem n h now es hes

/-- `heap_top` answers exactly when H is not empty, and then with a candidate (R98, R99). -/
theorem heapTop_cases (s : State) :
    (s.heap = [] ∧ s.heapTop = none) ∨ ∃ e ∈ nearest s.cfg s.cnt s.heap, s.heapTop = some e := by
  unfold State.heapTop
  split
  · rename_i h
    by_cases hh : s.heap = []
    · exact .inl ⟨hh, rfl⟩
    · exact absurd h (nearest_ne_nil _ _ _ hh)
  · rename_i e h
    exact .inr ⟨e, by simp [h], rfl⟩
  · rename_i e e' es h
    rw [h]
    exact .inr (electTop_mem _ _ _ _ _ (by simp))

theorem heapTop_none (s : State) : s.heapTop = none ↔ s.heap = [] := by
  rcases heapTop_cases s with ⟨h, h'⟩ | ⟨e, he, h'⟩
  · simp [h, h']
  · have := ((mem_nearest _ _ _ _).mp he).1
    simp [h', List.ne_nil_of_mem this]

theorem heapTop_some (s : State) (e : Entry) (h : s.heapTop = some e) :
    e ∈ s.heap ∧ ∀ e' ∈ s.heap, sdist s.cfg e.d s.cnt ≤ sdist s.cfg e'.d s.cnt := by
  rcases heapTop_cases s with ⟨_, h'⟩ | ⟨e', he, h'⟩
  · rw [h] at h'; cases h'
  · rw [h] at h'
    cases h'
    exact (mem_nearest _ _ _ _).mp he

theorem heapTop_exists (s : State) (h : s.heap ≠ []) : ∃ e, s.heapTop = some e := by
  rcases heapTop_cases s with ⟨h', _⟩ | ⟨e, _, h'⟩
  · exact absurd h' h
  · exact ⟨e, h'⟩

/-- The top depends on the parameters, CNT, H and its arrangement alone (R99). -/
theorem heapTop_congr (s t : State) (h1 : t.cfg = s.cfg) (h2 : t.cnt = s.cnt) (h3 : t.heap = s.heap)
    (h4 : t.arrangement = s.arrangement) : t.heapTop = s.heapTop := by
  simp only [State.heapTop, h1, h2, h3, h4]

theorem heapTop_of_singleton (s : State) (e : Entry) (h : s.heap = [e]) : s.heapTop = some e := by
  obtain ⟨x, hx⟩ := heapTop_exists s (by simp [h])
  have := (heapTop_some s x hx).1
  rw [h, List.mem_singleton] at this
  rw [hx, this]

end Sys2Proof.Machine
end

