-- ==== Sys2Proof/Laws/PerInstr.lean ====
section
/-! SUPPORT. Statements about every instruction, one lemma for each constructor of Instr. -/

namespace Sys2Proof

/-- An operation has a command word exactly when it is one of the fifteen host operations; the service and environment
steps have none (30_encoding.md R72, R81). -/
def Laws.EncodesIffHostOp.Statement (i : Instr) : Prop := (encode i).isSome = i.isHostOp

theorem Laws.EncodesIffHostOp.tkInit : Laws.EncodesIffHostOp.Statement .tkInit := rfl

theorem Laws.EncodesIffHostOp.tkNow : Laws.EncodesIffHostOp.Statement .tkNow := rfl

theorem Laws.EncodesIffHostOp.tkStart : Laws.EncodesIffHostOp.Statement .tkStart := rfl

theorem Laws.EncodesIffHostOp.tkPoll (tid : Byte) (ph : Phase) : Laws.EncodesIffHostOp.Statement (.tkPoll tid ph) := rfl

theorem Laws.EncodesIffHostOp.ewSet (slot : Byte) (lvl : Level) : Laws.EncodesIffHostOp.Statement (.ewSet slot lvl) := rfl

theorem Laws.EncodesIffHostOp.ewPoll (tid : Byte) (slot : Byte) : Laws.EncodesIffHostOp.Statement (.ewPoll tid slot) := rfl

theorem Laws.EncodesIffHostOp.exInit : Laws.EncodesIffHostOp.Statement .exInit := rfl

theorem Laws.EncodesIffHostOp.wake (tid : Byte) : Laws.EncodesIffHostOp.Statement (.wake tid) := rfl

theorem Laws.EncodesIffHostOp.wakeWk : Laws.EncodesIffHostOp.Statement .wakeWk := rfl

theorem Laws.EncodesIffHostOp.wkGet (tid : Byte) : Laws.EncodesIffHostOp.Statement (.wkGet tid) := rfl

theorem Laws.EncodesIffHostOp.exNext : Laws.EncodesIffHostOp.Statement .exNext := rfl

theorem Laws.EncodesIffHostOp.exSleep : Laws.EncodesIffHostOp.Statement .exSleep := rfl

theorem Laws.EncodesIffHostOp.mbSend (mbox : Byte) : Laws.EncodesIffHostOp.Statement (.mbSend mbox) := rfl

theorem Laws.EncodesIffHostOp.mbRecv (tid : Byte) (mbox : Byte) (ph : Phase) : Laws.EncodesIffHostOp.Statement (.mbRecv tid mbox ph) := rfl

theorem Laws.EncodesIffHostOp.stGet (sel : Byte) (sub : Byte) : Laws.EncodesIffHostOp.Statement (.stGet sel sub) := rfl

theorem Laws.EncodesIffHostOp.svcCmp : Laws.EncodesIffHostOp.Statement .svcCmp := rfl

theorem Laws.EncodesIffHostOp.svcWrap : Laws.EncodesIffHostOp.Statement .svcWrap := rfl

theorem Laws.EncodesIffHostOp.svcEdge (line : Nat) : Laws.EncodesIffHostOp.Statement (.svcEdge line) := rfl

theorem Laws.EncodesIffHostOp.tick : Laws.EncodesIffHostOp.Statement .tick := rfl

theorem Laws.EncodesIffHostOp.pin (line : Nat) (v : Level) : Laws.EncodesIffHostOp.Statement (.pin line v) := rfl

end Sys2Proof
end

