-- ==== Sys2Proof/Laws/Service.lean ====
section
/-! SUPPORT. What `wake` and `heap_service()` can do, said once (41_ticker.md R101 to R103, 44_executor.md R139). -/

namespace Sys2Proof.Machine

@[simp] theorem Flow.andThen_go (s : State) (k : State → Flow) : (Flow.go s).andThen k = k s := rfl

@[simp] theorem Flow.andThen_halt (s : State) (k : State → Flow) : (Flow.halt s).andThen k = .halt s := rfl

@[simp] theorem Flow.finish_go (s : State) (k : State → State) : (Flow.go s).finish k = k s := rfl

@[simp] theorem Flow.finish_halt (s : State) (k : State → State) : (Flow.halt s).finish k = s := rfl

@[simp] theorem State.when_true (s t : State) : s.when true t = .next t := rfl

@[simp] theorem State.when_false (s t : State) : s.when false t = .next s := rfl

/-- An offered step ends in a next state: the effect where it is enabled, the same state where it is not. -/
theorem State.when_eq (s t : State) (b : Bool) : s.when b t = .next (if b = true then t else s) := by
  cases b <;> rfl

theorem wake_full (s : State) (t : Byte) (h : s.rq.length = s.cfg.rqCap) :
    s.wake t = .halt (s.raiseFatal .rqFull (t.zeroExtend 32)) := by
  simp [State.wake, State.rqFull, h]

theorem wake_room (s : State) (t : Byte) (h : s.rq.length ≠ s.cfg.rqCap) : s.wake t = .go (s.rqAppend t) := by
  simp [State.wake, State.rqFull, h]

/-- The state after the entries `popped` have left H and their tasks been woken, H having become h'. -/
def State.served (s : State) (popped h' : List Entry) : State :=
  { s with heap := h', arrangement := s.arrangement + popped.length, rq := s.rq ++ wokenIds popped }

/-- The state in which the loop halts when, after the entries `popped` have left H and their tasks been woken, e is
popped and its wake finds RQ full (R187). -/
def State.servedHalt (s : State) (popped : List Entry) (e : Entry) (h' : List Entry) : State :=
  ({ s with heap := h', arrangement := s.arrangement + (popped.length + 1),
            rq := s.rq ++ wokenIds popped } : State).raiseFatal .rqFull (e.id.zeroExtend 32)

@[simp] theorem wokenIds_nil : wokenIds [] = [] := rfl

theorem wokenIds_cons (e : Entry) (es : List Entry) :
    wokenIds (e :: es) = if e.id = heartbeatId then wokenIds es else e.id :: wokenIds es := by
  by_cases h : e.id = heartbeatId <;> simp [wokenIds, h]

/-- A list of entries that `heap_service()` may have popped from H, leaving h': a part of H, all elapsed, in order of
signed distance, none of them after a remaining entry (R103, R114). -/
structure Popped (s : State) (popped h' : List Entry) : Prop where
  perm : (popped ++ h').Perm s.heap
  elapsed : ∀ e ∈ popped, elapsed s.cfg e.d s.cnt = true
  sorted : popped.Pairwise (fun a b => sdist s.cfg a.d s.cnt ≤ sdist s.cfg b.d s.cnt)
  before : ∀ e ∈ popped, ∀ e' ∈ h', sdist s.cfg e.d s.cnt ≤ sdist s.cfg e'.d s.cnt

theorem Popped.nil (s : State) : Popped s [] s.heap :=
  ⟨.refl _, by simp, .nil, by simp⟩

theorem Popped.cons (s t : State) (e : Entry) (popped h' : List Entry) (hc : t.cfg = s.cfg) (hn : t.cnt = s.cnt)
    (hp : (e :: t.heap).Perm s.heap) (ht : s.heapTop = some e) (he : Sys2Proof.Machine.elapsed s.cfg e.d s.cnt = true)
    (h : Popped t popped h') : Popped s (e :: popped) h' := by
  have hm := (heapTop_some s e ht).2
  have hin : ∀ x, x ∈ popped ∨ x ∈ h' → x ∈ s.heap := fun x hx =>
    hp.subset (List.mem_cons_of_mem _ (h.perm.subset (List.mem_append.mpr hx)))
  refine ⟨(h.perm.cons e).trans hp, ?_, ?_, ?_⟩
  · intro x hx
    rcases List.mem_cons.mp hx with rfl | hx
    · exact he
    · have := h.elapsed x hx
      rwa [hc, hn] at this
  · refine List.pairwise_cons.mpr ⟨fun x hx => hm x (hin x (.inl hx)), ?_⟩
    have := h.sorted
    rwa [hc, hn] at this
  · intro x hx y hy
    rcases List.mem_cons.mp hx with rfl | hx
    · exact hm y (hin y (.inr hy))
    · have := h.before x hx y hy
      rwa [hc, hn] at this

/-- The popping loop, said once: either it pops a list of expired entries, wakes their tasks in order and leaves no
expired top; or it does so up to an entry whose wake finds RQ full, and halts there (R103, R139, R187). -/
theorem drain_cases (n : Nat) (s : State) (hn : s.heap.length ≤ n) :
    (∃ popped h', drain n s = .go (s.served popped h') ∧ Popped s popped h' ∧
        ∀ e, (s.served popped h').heapTop = some e → elapsed s.cfg e.d s.cnt = false) ∨
      (∃ popped e h', drain n s = .halt (s.servedHalt popped e h') ∧
        Popped s (popped ++ [e]) h' ∧ e.id ≠ heartbeatId ∧ (s.rq ++ wokenIds popped).length = s.cfg.rqCap) := by
  induction n generalizing s with
  | zero =>
    have h0 : s.heap = [] := List.length_eq_zero_iff.mp (by omega)
    refine .inl ⟨[], s.heap, by simp [drain, State.served], Popped.nil s, fun e he => ?_⟩
    have := (heapTop_some _ e he).1
    simp [State.served, h0] at this
  | succ n ih =>
    rcases heapTop_cases s with ⟨h0, ht⟩ | ⟨e, -, ht⟩
    · refine .inl ⟨[], s.heap, by simp [drain, ht, State.served], Popped.nil s, fun e he => ?_⟩
      have := (heapTop_some _ e he).1
      simp [State.served, h0] at this
    · by_cases hel : elapsed s.cfg e.d s.cnt = true
      · have hmem := (heapTop_some s e ht).1
        have hperm := heapRemove_perm s.cfg s.cnt s.heap e hmem
        have hlen := hperm.length_eq
        by_cases hb : e.id = heartbeatId
        · have hd : drain (n + 1) s = drain n (s.heapPop e) := by
            simp [drain, ht, hel, State.wakeEntry, hb]
          rcases ih (s.heapPop e) (by simp at hlen ⊢; omega) with ⟨p, h', e1, hP, hT⟩ | ⟨p, x, h', e1, hP, hx, hl⟩
          · refine .inl ⟨e :: p, h', ?_, Popped.cons s (s.heapPop e) e p h' rfl rfl hperm ht hel hP, ?_⟩
            · rw [hd, e1]
              simp [State.served, State.heapPop, wokenIds_cons, hb, Nat.add_comm, Nat.add_left_comm]
            · intro y hy
              exact hT y ((heapTop_congr (s.served (e :: p) h') ((s.heapPop e).served p h') rfl rfl rfl
                (by simp [State.served, Nat.add_comm, Nat.add_left_comm])).trans hy)
          · refine .inr ⟨e :: p, x, h', ?_, ?_, hx, ?_⟩
            · rw [hd, e1]
              simp [State.servedHalt, State.heapPop, wokenIds_cons, hb, Nat.add_comm, Nat.add_left_comm]
            · exact Popped.cons s (s.heapPop e) e (p ++ [x]) h' rfl rfl hperm ht hel hP
            · simpa [wokenIds_cons, hb] using hl
        · by_cases hf : s.rq.length = s.cfg.rqCap
          · refine .inr ⟨[], e, heapRemove s.cfg s.cnt s.heap e, ?_, ?_, hb, by simpa using hf⟩
            · have : (s.heapPop e).rq.length = (s.heapPop e).cfg.rqCap := hf
              simp only [drain, ht, hel, State.wakeEntry, hb, wake_full _ _ this, if_true, if_false, Flow.andThen_halt]
              simp [State.servedHalt, State.heapPop]
            · refine ⟨hperm, by simpa using hel, by simp, ?_⟩
              intro x hx y hy
              rw [List.nil_append, List.mem_singleton] at hx
              subst hx
              exact (heapTop_some s x ht).2 y (hperm.subset (List.mem_cons_of_mem _ hy))
          · have hr : (s.heapPop e).rq.length ≠ (s.heapPop e).cfg.rqCap := hf
            have hd : drain (n + 1) s = drain n ((s.heapPop e).rqAppend e.id) := by
              simp [drain, ht, hel, State.wakeEntry, hb, wake_room _ _ hr]
            rcases ih ((s.heapPop e).rqAppend e.id) (by simp at hlen ⊢; omega) with
              ⟨p, h', e1, hP, hT⟩ | ⟨p, x, h', e1, hP, hx, hl⟩
            · refine .inl ⟨e :: p, h', ?_, Popped.cons s ((s.heapPop e).rqAppend e.id) e p h' rfl rfl hperm ht hel hP, ?_⟩
              · rw [hd, e1]
                simp [State.served, State.heapPop, State.rqAppend, wokenIds_cons, hb, Nat.add_comm, Nat.add_left_comm]
              · intro y hy
                exact hT y ((heapTop_congr (s.served (e :: p) h') (((s.heapPop e).rqAppend e.id).served p h') rfl rfl rfl
                  (by simp [State.served, Nat.add_comm, Nat.add_left_comm])).trans hy)
            · refine .inr ⟨e :: p, x, h', ?_, ?_, hx, ?_⟩
              · rw [hd, e1]
                simp [State.servedHalt, State.heapPop, State.rqAppend, wokenIds_cons, hb, Nat.add_comm,
                  Nat.add_left_comm]
              · exact Popped.cons s ((s.heapPop e).rqAppend e.id) e (p ++ [x]) h' rfl rfl hperm ht hel hP
              · simpa [wokenIds_cons, hb] using hl
      · refine .inl ⟨[], s.heap, by simp [drain, ht, hel, State.served], Popped.nil s, fun y hy => ?_⟩
        have hy' := (heapTop_congr s (s.served [] s.heap) rfl rfl rfl (by simp [State.served])).symm.trans hy
        rw [ht] at hy'
        cases hy'
        simpa using hel

/-- How many wake requests a popped list makes. -/
theorem wokenIds_length (s : State) (popped h' : List Entry) (h : Popped s popped h') :
    (wokenIds popped).length ≤ s.wakeCount := by
  have h1 : s.wakeCount = (popped ++ h').countP (wakes s.cfg s.cnt) := (h.perm.countP_eq _).symm
  have h2 : (wokenIds popped).length = popped.countP (wakes s.cfg s.cnt) := by
    rw [wokenIds, List.length_map, ← List.countP_eq_length_filter]
    exact List.countP_congr fun x hx => by simp [wakes, h.elapsed x hx]
  rw [h1, h2, List.countP_append]
  omega

/-- The loop never overfills RQ (R23, R139). -/
theorem drain_rq_le (n : Nat) (s t : State) (h : drain n s = .go t) (hr : s.rq.length ≤ s.cfg.rqCap) :
    t.rq.length ≤ s.cfg.rqCap := by
  induction n generalizing s with
  | zero =>
    cases h
    exact hr
  | succ n ih =>
    unfold drain at h
    split at h
    · cases h
      exact hr
    · rename_i e _
      split at h
      · unfold State.wakeEntry at h
        split at h
        · exact ih (s.heapPop e) h hr
        · by_cases hf : (s.heapPop e).rq.length = (s.heapPop e).cfg.rqCap
          · rw [wake_full _ _ hf] at h
            cases h
          · rw [wake_room _ _ hf] at h
            refine ih ((s.heapPop e).rqAppend e.id) h ?_
            simp at hf ⊢
            omega
      · cases h
        exact hr

/-- The loop does not halt when RQ has room for every wake request of the expired entries (R103, R139). -/
theorem drain_room (n : Nat) (s : State) (hn : s.heap.length ≤ n) (hr : s.rq.length + s.wakeCount ≤ s.cfg.rqCap) :
    ∃ popped h', drain n s = .go (s.served popped h') ∧ Popped s popped h' ∧
      ∀ e, (s.served popped h').heapTop = some e → elapsed s.cfg e.d s.cnt = false := by
  rcases drain_cases n s hn with h | ⟨p, e, h', -, hP, he, hl⟩
  · exact h
  · have := wokenIds_length s _ _ hP
    have h2 : wokenIds (p ++ [e]) = wokenIds p ++ [e.id] := by simp [wokenIds, List.filter_append, he]
    rw [h2] at this
    simp at this hl
    omega

/-- The heartbeat insertion and the arming step leave all but H, its arrangement, CMP and CIE (R101, R102). -/
theorem insertHeartbeat_arm (t : State) :
    ∃ h n m b, t.insertHeartbeat.arm = { t with heap := h, arrangement := n, cmp := m, cie := b } ∧
      (t.heap ≠ [] → h = t.heap ∧ n = t.arrangement) ∧ (t.heap = [] → h = [t.heartbeatEntry]) := by
  by_cases h0 : t.heap = []
  · have h1 : t.insertHeartbeat = t.heapPush t.heartbeatEntry := by simp [State.insertHeartbeat, h0]
    have h2 : (t.heapPush t.heartbeatEntry).heap = [t.heartbeatEntry] := by
      have := heapInsert_perm t.cfg t.cnt [] t.heartbeatEntry
      rw [State.heapPush_heap, h0]
      exact List.perm_singleton.mp this
    rw [h1]
    unfold State.arm
    split
    · exact ⟨_, _, _, _, rfl, fun h => absurd h0 h, fun _ => h2⟩
    · split
      · exact ⟨_, _, _, _, rfl, fun h => absurd h0 h, fun _ => h2⟩
      · exact ⟨_, _, _, _, rfl, fun h => absurd h0 h, fun _ => h2⟩
  · have h1 : t.insertHeartbeat = t := by simp [State.insertHeartbeat, h0]
    rw [h1]
    unfold State.arm
    split
    · exact ⟨_, _, _, _, rfl, fun _ => ⟨rfl, rfl⟩, fun h => absurd h h0⟩
    · split
      · exact ⟨_, _, _, _, rfl, fun _ => ⟨rfl, rfl⟩, fun h => absurd h h0⟩
      · exact ⟨_, _, _, _, rfl, fun _ => ⟨rfl, rfl⟩, fun h => absurd h h0⟩

/-- The arming step on a state whose top is e, which is not now (R102). -/
theorem arm_of_top (t : State) (e : Entry) (ht : t.heapTop = some e) :
    t.arm = if beforeWrap t.cfg e.d t.cnt then { t with cmp := e.d, cie := true } else { t with cie := false } := by
  simp [State.arm, ht]

/-- Arming leaves the top as it is. -/
@[simp] theorem arm_heapTop (t : State) : t.arm.heapTop = t.heapTop := by
  rcases heapTop_cases t with ⟨h0, ht⟩ | ⟨e, -, ht⟩
  · simp [State.arm, ht]
  · rw [arm_of_top t e ht]
    split <;> exact heapTop_congr _ _ rfl rfl rfl rfl

/-- `heap_service()`, said once: it pops, wakes, inserts the heartbeat into an empty heap and arms; or it halts at a wake
that finds RQ full (R103, R187). -/
theorem heapService_cases (s : State) :
    (∃ popped h', s.heapService = .go (s.served popped h').insertHeartbeat.arm ∧ Popped s popped h' ∧
        ∀ e, (s.served popped h').heapTop = some e → elapsed s.cfg e.d s.cnt = false) ∨
      (∃ popped e h', s.heapService = .halt (s.servedHalt popped e h') ∧ Popped s (popped ++ [e]) h' ∧
        e.id ≠ heartbeatId ∧ (s.rq ++ wokenIds popped).length = s.cfg.rqCap) := by
  rcases drain_cases s.heap.length s (Nat.le_refl _) with ⟨p, h', e1, h2⟩ | ⟨p, e, h', e1, h2⟩
  · exact .inl ⟨p, h', by simp [State.heapService, e1], h2⟩
  · exact .inr ⟨p, e, h', by simp [State.heapService, e1], h2⟩

/-- `heap_service()` completes when RQ has room for every wake request of the expired entries (R103, R139). -/
theorem heapService_room (s : State) (hr : s.rq.length + s.wakeCount ≤ s.cfg.rqCap) :
    ∃ popped h', s.heapService = .go (s.served popped h').insertHeartbeat.arm ∧ Popped s popped h' ∧
      ∀ e, (s.served popped h').heapTop = some e → elapsed s.cfg e.d s.cnt = false := by
  obtain ⟨p, h', e1, h2⟩ := drain_room s.heap.length s (Nat.le_refl _) hr
  exact ⟨p, h', by simp [State.heapService, e1], h2⟩

/-- After the heartbeat insertion H is not empty and its top has not elapsed (R101, R103). -/
theorem insertHeartbeat_top (t : State) (hw : t.cfg.wf = true) (hn : t.cnt.toNat < t.cfg.mod)
    (ht : ∀ e, t.heapTop = some e → elapsed t.cfg e.d t.cnt = false) :
    ∃ e, t.insertHeartbeat.heapTop = some e ∧ elapsed t.cfg e.d t.cnt = false ∧ (e ∈ t.heap ∨ e = t.heartbeatEntry) := by
  by_cases h0 : t.heap = []
  · have h1 : t.insertHeartbeat = t.heapPush t.heartbeatEntry := by simp [State.insertHeartbeat, h0]
    have h2 : (t.heapPush t.heartbeatEntry).heap = [t.heartbeatEntry] := by
      have := heapInsert_perm t.cfg t.cnt [] t.heartbeatEntry
      rw [State.heapPush_heap, h0]
      exact List.perm_singleton.mp this
    refine ⟨t.heartbeatEntry, ?_, heartbeat_not_elapsed t.cfg hw t.cnt hn, .inr rfl⟩
    rw [h1]
    exact heapTop_of_singleton _ _ h2
  · have h1 : t.insertHeartbeat = t := by simp [State.insertHeartbeat, h0]
    obtain ⟨e, he⟩ := heapTop_exists t h0
    exact ⟨e, by rw [h1, he], ht e he, .inl (heapTop_some t e he).1⟩

/-- The arming step on a top that has not elapsed: the compare interrupt is enabled for it where it lies ahead in this
wrap cycle, and disabled where it lies at or beyond the wrap, CMP being kept (R102). -/
theorem arm_covers (t : State) (e : Entry) (hm : t.cfg.mod ≤ 2 ^ 32) (hn : t.cnt.toNat < t.cfg.mod)
    (hd : e.d.toNat < t.cfg.mod) (ht : t.heapTop = some e) (he : elapsed t.cfg e.d t.cnt = false) :
    (t.arm = { t with cmp := e.d, cie := true } ∧ t.cnt.toNat < e.d.toNat) ∨
      (t.arm = { t with cie := false } ∧ e.d.toNat < t.cnt.toNat) := by
  have hne : e.d ≠ t.cnt := by
    intro h
    rw [h, elapsed_self t.cfg hm t.cnt hn] at he
    cases he
  have hb := beforeWrap_iff t.cfg hm e.d t.cnt hd hn hne
  rw [arm_of_top t e ht]
  by_cases h : beforeWrap t.cfg e.d t.cnt = true
  · exact .inl ⟨by simp [h], hb.mp h⟩
  · have hne' : e.d.toNat ≠ t.cnt.toNat := fun hx => hne (BitVec.eq_of_toNat_eq hx)
    exact .inr ⟨by simp [h], by have := mt hb.mpr h; omega⟩

/-- The heartbeat insertion leaves the parameters, CNT and CMP (R101). -/
theorem insertHeartbeat_keeps (t : State) :
    t.insertHeartbeat.cfg = t.cfg ∧ t.insertHeartbeat.cnt = t.cnt ∧ t.insertHeartbeat.cmp = t.cmp := by
  unfold State.insertHeartbeat
  split <;> exact ⟨rfl, rfl, rfl⟩

/-- Where no entry reads as HALF ticks overdue and the top has not elapsed, nothing has: every other entry is at least as far
ahead (R94, R98). -/
theorem not_elapsed_of_top (t : State) (hw : t.cfg.wf = true) (hn : t.cnt.toNat < t.cfg.mod)
    (hd : ∀ e ∈ t.heap, e.d.toNat < t.cfg.mod) (hwin : t.InWindow)
    (ht : ∀ e, t.heapTop = some e → elapsed t.cfg e.d t.cnt = false) : ∀ e ∈ t.heap, elapsed t.cfg e.d t.cnt = false := by
  intro x hx
  obtain ⟨y, hy⟩ := heapTop_exists t (List.ne_nil_of_mem hx)
  obtain ⟨hyh, hmin⟩ := heapTop_some t y hy
  by_contra hc
  have h1 := (elapsed_iff t.cfg hw x.d t.cnt (hd x hx) hn).mp (by simpa using hc)
  have h2 := hmin x hx
  have h3 := hwin y hyh
  have h4 := (elapsed_iff t.cfg hw y.d t.cnt (hd y hyh) hn).mpr ⟨by omega, by omega⟩
  rw [ht y hy] at h4
  cases h4

/-- What `heap_service()` does, as the statements say it: it completes and leaves `Serviced`, or halts and leaves
`ServiceHalted`, and writes nothing besides (R103, R187). -/
theorem heapService_spec (s : State) (hw : s.cfg.wf = true) (hn : s.cnt.toNat < s.cfg.mod)
    (hd : ∀ e ∈ s.heap, e.d.toNat < s.cfg.mod) :
    (∃ t, s.heapService = .go t ∧ s.Serviced s.heap t ∧
      t = { s with heap := t.heap, arrangement := t.arrangement, rq := t.rq, cmp := t.cmp, cie := t.cie }) ∨
    (∃ t, s.heapService = .halt t ∧ s.ServiceHalted s.heap t ∧
      t = { s with heap := t.heap, arrangement := t.arrangement, rq := t.rq, fcause := t.fcause, finfo := t.finfo }) := by
  have hm := wf_mod_le _ hw
  rcases heapService_cases s with ⟨p, h', e1, hP, hT⟩ | ⟨p, e, h', e1, hP, hne, hl⟩
  · obtain ⟨h, n, m, b, hE, hE1, hE2⟩ := insertHeartbeat_arm (s.served p h')
    refine .inl ⟨_, e1, ?_, by rw [hE]; rfl⟩
    obtain ⟨e, he, hel, hmem⟩ := insertHeartbeat_top (s.served p h') hw hn (fun e he => hT e he)
    have hin : ∀ x ∈ h', x ∈ s.heap := fun x hx => hP.perm.subset (by simp [hx])
    refine ⟨p, h', hP.perm, hP.elapsed, hP.sorted, hP.before, ?_, ?_, ?_, e, by rw [arm_heapTop]; exact he, hel, ?_⟩
    · exact fun hwin => not_elapsed_of_top (s.served p h') hw hn (fun x hx => hd x (hin x hx))
        (fun x hx => hwin x (hin x hx)) hT
    · rw [hE]
      rfl
    · rw [hE]
      by_cases h0 : h' = []
      · simp only [h0, if_true]
        rw [hE2 (by simpa [State.served] using h0)]
        rfl
      · simp only [h0, if_false]
        exact (hE1 (by simpa [State.served] using h0)).1
    · obtain ⟨hcfg, hcnt, hcmp⟩ := insertHeartbeat_keeps (s.served p h')
      have hed : e.d.toNat < s.cfg.mod := by
        rcases hmem with h | h
        · exact hd e (hin e h)
        · rw [h]
          exact tAdd_lt _ hm _ _
      have hcnt' : (s.served p h').insertHeartbeat.cnt = s.cnt := hcnt
      rcases arm_covers _ e (by rw [hcfg]; exact hm) (by rw [hcfg, hcnt]; exact hn) (by rw [hcfg]; exact hed) he
        (by rw [hcfg, hcnt]; exact hel) with ⟨ha, hb⟩ | ⟨ha, hb⟩
      · rw [ha]
        rw [hcnt'] at hb
        simp [hb]
      · rw [ha]
        rw [hcnt'] at hb
        have : ¬s.cnt.toNat < e.d.toNat := by omega
        simp only [this, if_false, decide_false]
        exact ⟨hcmp, trivial⟩
  · exact .inr ⟨_, e1, ⟨p, e, h', by simpa using hP.perm, hP.elapsed, hP.sorted, hP.before, hne, rfl, rfl, hl, rfl, rfl,
      rfl, rfl⟩, rfl⟩

end Sys2Proof.Machine
end

