-- ==== Sys2Proof/Tests/Slice0.lean ====
section
/-! SUPPORT. The model's own tests: well-formedness, decoding, one step of each instruction, and a state and operands that
meet the hypotheses of each statement. Expected values are those of spec/95_test_vectors.md and of the rules' own
examples. -/

namespace Sys2Proof.Tests

open Sys2Proof Sys2Proof.Machine

/-! ## Small states -/

/-- TICK_W = 8, CNT_RESET = 250, the other parameters at their defaults (95_test_vectors.md, section 0). -/
def cfg8 : Config := { Config.default with tickW := 8, heartbeat := 127, cntReset := 250 }

/-- Right after reset, with CNT = 250 of a counter of 8 bits. -/
def s8 : State := State.init cfg8

/-- The same after TK_INIT: the heartbeat at 121 lies beyond the wrap (V-T1). -/
def k8 : State := { s8 with tken := true, heap := [Entry.mk 121#32 0xFE#8] }

/-- The state an instruction leaves. -/
def after (i : Instr) (s : State) : Option State :=
  match exec i s with
  | .next t => some t
  | .fault _ => none
  | .refused _ => none

/-- STATUS, RES0 and RES1 after an instruction. -/
def results (i : Instr) (s : State) : Option (Word × Word × Word) := (after i s).map (fun t => (t.status, t.res0, t.res1))

/-! ## Well-formedness: an ill-formed term for each check -/

theorem test_wf_line : (Instr.pin 32 .low).wf = false ∧ (Instr.svcEdge 32).wf = false ∧ (Instr.svcEdge 31).wf = true := by
  decide

theorem test_wf_tickW : Config.tickWOk { Config.default with tickW := 7 } = false ∧
    Config.tickWOk { Config.default with tickW := 33 } = false ∧ Config.wf { Config.default with tickW := 7 } = false := by
  decide

theorem test_wf_caps : Config.capsOk { Config.default with rqCap := 0 } = false ∧
    Config.capsOk { Config.default with heapCap := 256 } = false ∧ Config.wf { Config.default with rqCap := 256 } = false := by
  decide

theorem test_wf_ntask : Config.ntaskOk { Config.default with ntask := 255 } = false ∧
    Config.ntaskOk { Config.default with ntask := 0 } = false ∧ Config.wf { Config.default with ntask := 255 } = false := by
  decide

theorem test_wf_lines : Config.linesOk { Config.default with edgeRise := [true] } = false ∧
    Config.linesOk { Config.default with nline := 0, edgeRise := [], edgeFall := [], pinReset := [] } = false ∧
    Config.wf { Config.default with pinReset := [] } = false := by decide

theorem test_wf_slots : Config.slotsOk { Config.default with lineOfSlot := [1, 1] } = false ∧
    Config.slotsOk { Config.default with lineOfSlot := [4] } = false ∧
    Config.slotsOk { Config.default with lineOfSlot := [] } = false ∧
    Config.wf { Config.default with lineOfSlot := [4] } = false := by decide

theorem test_wf_nmbox : Config.nmboxOk { Config.default with nmbox := 0 } = false ∧
    Config.nmboxOk { Config.default with nmbox := 257 } = false ∧ Config.wf { Config.default with nmbox := 257 } = false := by
  decide

theorem test_wf_heartbeat : Config.heartbeatOk { Config.default with heartbeat := 0 } = false ∧
    Config.heartbeatOk { Config.default with tickW := 8, heartbeat := 128 } = false ∧
    Config.wf { Config.default with heartbeat := 0 } = false := by decide

theorem test_wf_cntReset : Config.cntResetOk { cfg8 with cntReset := 256 } = false ∧
    Config.wf { cfg8 with cntReset := 256 } = false := by decide

theorem test_wf_configs : Config.default.wf = true ∧ cfg8.wf = true ∧ Config.defaultHeartbeat 8 = 127 ∧
    Config.defaultHeartbeat 32 = 86400000 := by decide

/-! ## Decoding: a word of every row written out from R67 and R72 -/

theorem test_decode_tkInit : decode 0b00010000_00000000_00000000_0000000_0#32 = .ok .tkInit := by decide
theorem test_decode_tkNow : decode 0b00010001_00000000_00000000_0000000_0#32 = .ok .tkNow := by decide
theorem test_decode_tkStart : decode 0b00010010_00000000_00000000_0000000_0#32 = .ok .tkStart := by decide
theorem test_decode_tkPoll : decode 0b00010011_00000001_00000000_0000000_1#32 = .ok (.tkPoll 1#8 .wait) := by decide
theorem test_decode_ewSet : decode 0b00100000_00000000_00000010_0000000_1#32 = .ok (.ewSet 2#8 .high) := by decide
theorem test_decode_ewPoll : decode 0b00100001_00000001_00000010_0000000_0#32 = .ok (.ewPoll 1#8 2#8) := by decide
theorem test_decode_exInit : decode 0b00110000_00000000_00000000_0000000_0#32 = .ok .exInit := by decide
theorem test_decode_wake : decode 0b00110001_11111110_00000000_0000000_0#32 = .ok (.wake 0xFE#8) := by decide
theorem test_decode_wakeWk : decode 0b00110010_00000000_00000000_0000000_0#32 = .ok .wakeWk := by decide
theorem test_decode_wkGet : decode 0b00110011_00000001_00000000_0000000_0#32 = .ok (.wkGet 1#8) := by decide
theorem test_decode_exNext : decode 0b00110100_00000000_00000000_0000000_0#32 = .ok .exNext := by decide
theorem test_decode_exSleep : decode 0b00110101_00000000_00000000_0000000_0#32 = .ok .exSleep := by decide
theorem test_decode_mbSend : decode 0b01000000_00000000_00000011_0000000_0#32 = .ok (.mbSend 3#8) := by decide
theorem test_decode_mbRecv : decode 0b01000001_00000001_00000010_0000000_1#32 = .ok (.mbRecv 1#8 2#8 .wait) := by decide
theorem test_decode_stGet : decode 0b01010000_00000001_00000110_0000000_0#32 = .ok (.stGet 6#8 1#8) := by decide

/-- V-C: reserved opcodes. -/
theorem test_decode_reserved :
    decode 0x00000000#32 = .error .unknownOpcode ∧ decode 0xFFFFFFFF#32 = .error .unknownOpcode ∧
    decode 0x14000000#32 = .error .unknownOpcode ∧ decode 0x36000000#32 = .error .unknownOpcode ∧
    decode 0x51000000#32 = .error .unknownOpcode := by decide

/-- V-C: a one bit in RSV or in an unused field. -/
theorem test_decode_nonzero_field :
    decode 0x10000001#32 = .error .nonzeroField ∧ decode 0x10010000#32 = .error .nonzeroField ∧
    decode 0x11000100#32 = .error .nonzeroField ∧ decode 0x13000100#32 = .error .nonzeroField ∧
    decode 0x13000002#32 = .error .nonzeroField ∧ decode 0x20010000#32 = .error .nonzeroField ∧
    decode 0x21000001#32 = .error .nonzeroField ∧ decode 0x31000100#32 = .error .nonzeroField ∧
    decode 0x34000080#32 = .error .nonzeroField ∧ decode 0x40010000#32 = .error .nonzeroField ∧
    decode 0x41000002#32 = .error .nonzeroField ∧ decode 0x50000001#32 = .error .nonzeroField := by decide

/-- The host's reading of a table row, and the first step after reset that runs it. -/
theorem test_table_word : decodeTableWord 32 0x33010000 = some (.wkGet 1#8) ∧ decodeTableWord 32 0 = none := by decide

theorem test_step_runs_fetched_word :
    (match step (State.reset.withFetchWord 32 0x33010000) with
      | .next t => t.res0 == 0x57414B01#32 && t.cmd == 0x33010000#32 && t.agenda.isEmpty
      | .fault _ => false
      | .refused _ => false) = true := by decide

/-! ## Tick arithmetic (V-A, TICK_W = 8) -/

theorem test_sdist : sdist cfg8 4#32 250#32 = 10 ∧ sdist cfg8 250#32 4#32 = -10 ∧ sdist cfg8 138#32 10#32 = -128 ∧
    sdist cfg8 147#32 20#32 = 127 := by decide

theorem test_elapsed : elapsed cfg8 10#32 10#32 = true ∧ elapsed cfg8 0#32 255#32 = false ∧ elapsed cfg8 255#32 0#32 = true ∧
    elapsed cfg8 138#32 10#32 = false ∧ elapsed cfg8 139#32 10#32 = true := by decide

/-! ## One step of each instruction -/

/-- V-T1, and the example of R104. -/
theorem test_tkInit : (after .tkInit s8).map (fun t => (t.heap, t.cmp, t.cie, t.tken)) =
    some ([Entry.mk 121#32 0xFE#8], 0#32, false, true) := by decide
theorem test_tkInit_again : results .tkInit k8 = some (3#32, 0#32, 0#32) := by decide

theorem test_tkNow : results .tkNow s8 = some (0#32, 0xFA#32, 0#32) := by decide

/-- V-T1. -/
theorem test_tkStart : results .tkStart { s8 with arg := 0x7F#32 } = some (0#32, 0x79#32, 0#32) := by decide
theorem test_tkStart_range : results .tkStart { s8 with arg := 0x80#32 } = some (2#32, 0#32, 0#32) := by decide

/-- V-T6. -/
theorem test_tkPoll_init : (after (.tkPoll 0#8 .init) { k8 with arg := 0xFF#32 }).map
    (fun t => (t.res0, t.cmp, t.cie, t.heap.length)) = some (2#32, 255#32, true, 2) := by decide
/-- P2, step 15: the comparison across the wrap. -/
theorem test_tkPoll_wait : results (.tkPoll 1#8 .wait) { k8 with cnt := 253#32, arg := 4#32 } = some (0#32, 2#32, 0#32) ∧
    results (.tkPoll 1#8 .wait) { k8 with cnt := 4#32, arg := 4#32 } = some (0#32, 3#32, 0#32) := by decide

/-- V-E1. -/
theorem test_ewSet : (after (.ewSet 0#8 .high) s8).map (fun t => t.slots) = some [Slot.mk 0xFF#8 .high] := by decide
theorem test_ewSet_range : results (.ewSet 1#8 .high) s8 = some (2#32, 0#32, 0#32) := by decide

/-- V-E1. -/
theorem test_ewPoll_pending : (after (.ewPoll 0#8 0#8) s8).map (fun t => (t.res0, t.slots, t.pend)) =
    some (0#32, [Slot.mk 0#8 .low], [false, false, false, false]) := by decide
/-- S5. -/
theorem test_ewPoll_ready : (after (.ewPoll 0#8 0#8) { s8 with pin := [.low, .high, .high, .high] }).map
    (fun t => (t.res0, t.slots)) = some (1#32, [Slot.mk 0xFF#8 .low]) := by decide

/-- V-X1, V-X3. -/
theorem test_exInit : (after .exInit s8).map (fun t => (t.rq, t.exen)) = some ([0#8, 1#8], true) := by decide
theorem test_exInit_overflow : (after .exInit { s8 with cfg := { cfg8 with ntask := 5 } }).map
    (fun t => (t.rq, t.exen, t.fcause, t.finfo)) = some ([0#8, 1#8, 2#8, 3#8], true, 1#32, 4#32) := by decide

/-- V-X1. -/
theorem test_wake : (after (.wake 7#8) { s8 with rq := [0#8, 1#8] }).map (fun t => t.rq) = some [0#8, 1#8, 7#8] := by decide
theorem test_wake_full : (after (.wake 1#8) { s8 with rq := [0#8, 1#8, 0#8, 1#8] }).map (fun t => (t.rq.length, t.fcause, t.finfo)) =
    some (4, 1#32, 1#32) := by decide

/-- V-X1, V-X2. -/
theorem test_wakeWk : (after .wakeWk { s8 with arg := 0x57414B01#32 }).map (fun t => t.rq) = some [1#8] := by decide
theorem test_wakeWk_unknown : (after .wakeWk { s8 with arg := 0x57414B02#32 }).map (fun t => (t.rq, t.fcause, t.finfo)) =
    some ([], 3#32, 0x57414B02#32) := by decide

theorem test_wkGet : results (.wkGet 1#8) s8 = some (0#32, 0x57414B01#32, 0#32) := by decide
theorem test_wkGet_range : results (.wkGet 2#8) s8 = some (2#32, 0#32, 0#32) := by decide

/-- V-X1. -/
theorem test_exNext : results .exNext { s8 with rq := [1#8, 7#8] } = some (0#32, 1#32, 1#32) := by decide
theorem test_exNext_skip : results .exNext { s8 with rq := [7#8] } = some (0#32, 2#32, 7#32) := by decide

/-- V-X4, V-X1. -/
theorem test_exSleep : (after .exSleep s8).map (fun t => t.sleep) = some true := by decide
theorem test_exSleep_busy : (after .exSleep { s8 with rq := [1#8] }).map (fun t => t.sleep) = some false := by decide

/-- V-M1, V-M3. -/
theorem test_mbSend : (after (.mbSend 0#8) { s8 with arg := 0xCAFE0001#32, mboxes := [Mailbox.mk false 0#32 1#8] }).map
    (fun t => (t.mboxes, t.rq)) = some ([Mailbox.mk true 0xCAFE0001#32 1#8], [1#8]) := by decide
theorem test_mbSend_halt : (after (.mbSend 0#8)
    { s8 with arg := 9#32, rq := [0#8, 1#8, 0#8, 1#8], status := 3#32, mboxes := [Mailbox.mk false 0#32 1#8] }).map
    (fun t => (t.mboxes, t.fcause, t.finfo, t.status)) = some ([Mailbox.mk true 9#32 1#8], 1#32, 1#32, 3#32) := by decide

/-- The examples of R134. -/
theorem test_mbRecv_wait : results (.mbRecv 1#8 0#8 .wait) { s8 with mboxes := [Mailbox.mk true 1#32 1#8] } =
    some (0#32, 3#32, 1#32) := by decide
theorem test_mbRecv_init : (after (.mbRecv 1#8 0#8 .init) { s8 with mboxes := [Mailbox.mk true 7#32 0xFF#8] }).map
    (fun t => (t.res0, t.mboxes)) = some (2#32, [Mailbox.mk true 7#32 1#8]) := by decide

/-- V-S. -/
theorem test_stGet_top : results (.stGet 3#8 0#8) k8 = some (0#32, 121#32, 0xFE#32) := by decide
theorem test_stGet_words : results (.stGet 5#8 0#8) s8 = some (0#32, 0xF#32, 0#32) ∧
    results (.stGet 7#8 0#8) { s8 with mboxes := [Mailbox.mk false 7#32 1#8] } = some (0#32, 0x100#32, 0#32) ∧
    results (.stGet 1#8 0#8) { s8 with cie := true, tken := true, exen := true } = some (0#32, 0x1A#32, 0#32) := by decide

/-- The example of R110. -/
theorem test_svcCmp : (after .svcCmp
    { k8 with cnt := 3#32, cf := true, cie := true, cmp := 3#32,
              heap := [Entry.mk 121#32 0xFE#8, Entry.mk 5#32 1#8, Entry.mk 3#32 0#8] }).map
    (fun t => (t.rq, t.heap.length, t.cmp, t.cie, t.cf)) =
    some ([0#8], 2, 5#32, true, false) := by decide
/-- V-T8. -/
theorem test_svcCmp_heartbeat : (after .svcCmp
    { k8 with cnt := 127#32, cf := true, cie := true, cmp := 127#32,
              heap := [Entry.mk 127#32 0xFE#8] }).map (fun t => (t.rq, t.heap, t.cmp, t.cie)) =
    some ([], [Entry.mk 254#32 0xFE#8], 254#32, true) := by decide

/-- The example of R111, and V-T5. -/
theorem test_svcWrap : (after .svcWrap { k8 with cnt := 0#32, wf := true, heap := [Entry.mk 4#32 1#8, Entry.mk 121#32 0xFE#8] }).map
    (fun t => (t.rq, t.cmp, t.cie, t.wf)) = some ([], 4#32, true, false) := by decide
theorem test_svcWrap_due : (after .svcWrap
    { k8 with cnt := 0#32, wf := true, cf := true,
              heap := [Entry.mk 0#32 0#8, Entry.mk 121#32 0xFE#8] }).map (fun t => (t.rq, t.cmp, t.cie, t.cf)) =
    some ([0#8], 121#32, true, true) := by decide

/-- The example of R127, and V-E5. -/
theorem test_svcEdge : (after (.svcEdge 0) { s8 with sleep := true, pend := [true, false, false, false], slots := [Slot.mk 0#8 .low] }).map
    (fun t => (t.pend, t.slots, t.rq, t.sleep)) =
    some ([false, false, false, false], [Slot.mk 0xFF#8 .low], [0#8], false) := by decide
theorem test_svcEdge_halt : (after (.svcEdge 0)
    { s8 with sleep := true, pend := [true, false, false, false],
              slots := [Slot.mk 0#8 .low], rq := [0#8, 1#8, 0#8, 1#8] }).map (fun t => (t.slots, t.fcause, t.finfo, t.sleep)) =
    some ([Slot.mk 0xFF#8 .low], 1#32, 0#32, true) := by decide

/-- The examples of R109. -/
theorem test_tick : (after .tick { s8 with cnt := 2#32, cmp := 3#32 }).map (fun t => (t.cnt, t.cf, t.wf)) =
    some (3#32, true, false) := by decide
theorem test_tick_wraps : (after .tick { s8 with cnt := 255#32, cmp := 253#32 }).map (fun t => (t.cnt, t.cf, t.wf)) =
    some (0#32, false, true) := by decide

/-- V-E1, V-E2. -/
theorem test_pin : (after (.pin 0 .low) s8).map (fun t => (t.pin, t.pend)) =
    some ([.low, .high, .high, .high], [true, false, false, false]) := by decide
theorem test_pin_unconfigured : (after (.pin 2 .low) s8).map (fun t => (t.pin, t.pend)) =
    some ([.high, .high, .low, .high], [false, false, false, false]) := by decide

/-! ## Witnesses: a state and operands that meet the hypotheses of each statement, clause by clause -/

/-- Whether a step ends in a next state. -/
def isNext (o : Host.Outcome State Fault Refusal) : Bool :=
  match o with
  | .next _ => true
  | .fault _ => false
  | .refused _ => false

/-- A halted state. -/
def halted : State := { s8 with fcause := 1#32 }

/-- Every service enabled: both timer flags, the compare interrupt, a pending line with a waiter, HOST asleep. -/
def busy : State :=
  { k8 with cnt := 4#32, cmp := 4#32, cie := true, cf := true, wf := true, sleep := true,
            heap := [Entry.mk 4#32 1#8, Entry.mk 121#32 0xFE#8], pend := [true, false, false, true],
            slots := [Slot.mk 0#8 .low] }

/-- A service whose wake request finds RQ full. -/
def full : State := { busy with rq := [0#8, 1#8, 0#8, 1#8] }

theorem witness_ResetInputLoadsTheResetTable : busy.cfg.wf = true ∧ 3 < busy.cfg.nline ∧ 0 < busy.cfg.nslot ∧
    0 < busy.cfg.nmbox := by decide

theorem witness_ResetMeetsTheInvariant : cfg8.wf = true ∧ Config.default.wf = true := by decide

theorem witness_DecodeInvertsEncode : (Instr.stGet 0xFF#8 0xFF#8).wf = true ∧
    encode (.stGet 0xFF#8 0xFF#8) = some 0x50FFFF00#32 ∧ (Instr.stGet 0xFF#8 0xFF#8).isHostOp = true := by decide

theorem witness_EncodeInvertsDecode : decode 0x41FFFF01#32 = .ok (.mbRecv 0xFF#8 0xFF#8 .wait) := by decide

theorem witness_MaskAndMatchDecideTheDecoding :
    decode 0x14000000#32 = .error .unknownOpcode ∧
    (Opcode.tkPoll.code = fieldOpc 0x13FF0001#32 ∧ 0x13FF0001#32 &&& Opcode.tkPoll.mask = Opcode.tkPoll.matchWord) ∧
    (Opcode.tkPoll.code = fieldOpc 0x13000002#32 ∧ 0x13000002#32 &&& Opcode.tkPoll.mask ≠ Opcode.tkPoll.matchWord) := by
  decide

theorem witness_StepRunsTheDecodedOperation :
    ({ s8 with agenda := [.write 0x00 .word 0x11000000#32] } : State).agenda = .write 0x00 .word 0x11000000#32 :: [] ∧
    ({ s8 with agenda := [.write 0x00 .word 0x11000000#32] } : State).hostReady = true ∧
    decode 0x11000000#32 = .ok .tkNow := by decide

theorem witness_StepRunsTheAgentAtTheHead :
    ({ s8 with agenda := [.tick] } : State).agenda = .tick :: [] ∧
    ({ s8 with agenda := [.pin 3 .low] } : State).agenda = .pin 3 .low :: [] ∧
    ({ s8 with agenda := [.svcCmp] } : State).agenda = .svcCmp :: [] ∧
    ({ s8 with agenda := [.svcWrap] } : State).agenda = .svcWrap :: [] ∧
    ({ s8 with agenda := [.svcEdge 3] } : State).agenda = .svcEdge 3 :: [] ∧ s8.agenda = [] := by decide

theorem witness_IllegalWordsReportErrIllegal :
    (cmdWrite 0x51000000#32 = .write 0x00 .word 0x51000000#32 ∧ s8.hostReady = true ∧
      ∀ o ∈ Opcode.all, o.code ≠ fieldOpc 0x51000000#32) ∧
    (Opcode.tkInit.code = fieldOpc 0x10000001#32 ∧ 0x10000001#32 &&& Opcode.tkInit.mask ≠ Opcode.tkInit.matchWord) := by
  decide

/-- The halt on top of SLEEP: HOST asleep, and the port still read. -/
def haltedAsleep : State := { halted with sleep := true }

theorem witness_PortReadsAndPlainWrites : (s8.sleep = false ∧ s8.hostReady = true) ∧
    (haltedAsleep.sleep = true ∧ haltedAsleep.fatal = true) ∧
    0x08 ∈ [0x08, 0x0C, 0x10, 0x14, 0x18] ∧ 0x18 ∈ [0x08, 0x0C, 0x10, 0x14, 0x18] := by decide

theorem witness_MalformedAccessesAreRefused : s8.sleep = false ∧ haltedAsleep.fatal = true ∧ AccessWidth.byte ≠ .word ∧
    AccessWidth.half ≠ .word ∧ 1 % 4 ≠ 0 ∧ 0x1D % 4 ≠ 0 ∧ (0x1C % 4 = 0 ∧ 0x1C ≤ 0x1C) := by decide

theorem witness_ArgThenCmdPerformsTheOperation : s8.hostReady = true ∧ decode 0x12000000#32 = .ok .tkStart ∧
    isNext (exec .tkStart { s8 with arg := 0x7F#32, cmd := 0x12000000#32 }) = true := by decide

/-- A port read, a write, and an empty agenda. -/
theorem witness_HaltedBlockIsAFixedPoint :
    (({ halted with agenda := [.read 0x14 .word] } : State).fatal = true ∧
      ({ halted with agenda := [.read 0x14 .word] } : State).agenda.head? = some (.read 0x14 .word) ∧
      portAccess 0x14 .word = .ok .fcause ∧ isNext (step { halted with agenda := [.read 0x14 .word] }) = true) ∧
    (∀ off width, ({ halted with agenda := [.tick] } : State).agenda.head? ≠ some (.read off width)) ∧
    isNext (step { halted with agenda := [.tick] }) = true ∧ isNext (step halted) = true :=
  ⟨⟨by decide, by decide, rfl, by decide⟩, by simp, by decide, by decide⟩

theorem witness_SleepingHostHasNoStep : busy.sleep = true ∧ Instr.tkNow.isHostOp = true ∧ busy.fatal = false := by decide

theorem witness_StepsNotEnabledChangeNothing :
    halted.fcause ≠ 0#32 ∧
    ¬(k8.fcause = 0#32 ∧ k8.tken = true ∧ k8.cf = true ∧ k8.cie = true) ∧
    ¬(k8.fcause = 0#32 ∧ k8.tken = true ∧ k8.wf = true) ∧ ¬(k8.fcause = 0#32 ∧ k8.pendAt 3 = true) ∧
    ¬(k8.fcause = 0#32 ∧ 4 < k8.cfg.nline ∧ Level.low ≠ k8.pinAt 4) ∧
    ¬(k8.fcause = 0#32 ∧ 3 < k8.cfg.nline ∧ Level.high ≠ k8.pinAt 3) := by decide

theorem witness_TkInitEstablishesTheHeartbeat :
    (k8.hostReady = true ∧ k8.cfg.wf = true ∧ k8.cnt.toNat < k8.cfg.mod ∧ k8.tken = true) ∧
    (s8.hostReady = true ∧ s8.cfg.wf = true ∧ s8.cnt.toNat < s8.cfg.mod ∧ s8.tken = false) := by decide

theorem witness_TkNowReturnsTheCounter : s8.hostReady = true := by decide

/-- The greatest duration in range and the least above it. -/
theorem witness_TkStartReturnsTheEndTime : s8.hostReady = true ∧ s8.cfg.wf = true ∧
    (127#32).toNat ≤ 2 ^ (s8.cfg.tickW - 1) - 1 ∧ 2 ^ (s8.cfg.tickW - 1) - 1 < (128#32).toNat := by decide

/-- The least identity and end time out of range, the greatest in range, before and after TK_INIT. -/
theorem witness_TkPollWaitComparesAndRefusesInOrder :
    (k8.hostReady = true ∧ k8.cfg.wf = true ∧ k8.cnt.toNat < k8.cfg.mod) ∧
    k8.cfg.ntask ≤ (2#8).toNat ∧ k8.cfg.mod ≤ (256#32).toNat ∧
    ((1#8).toNat < s8.cfg.ntask ∧ (255#32).toNat < s8.cfg.mod ∧ s8.tken = false ∧ s8.hostReady = true) ∧
    ((1#8).toNat < k8.cfg.ntask ∧ (255#32).toNat < k8.cfg.mod ∧ k8.tken = true) := by decide

theorem witness_TkPollInitRegistersTheDeadline :
    (k8.hostReady = true ∧ k8.cfg.wf = true ∧ k8.cnt.toNat < k8.cfg.mod ∧ (∀ e ∈ k8.heap, e.d.toNat < k8.cfg.mod) ∧
      (1#8).toNat < k8.cfg.ntask ∧ ({ k8 with arg := 250#32 } : State).arg.toNat < k8.cfg.mod ∧ k8.tken = true) ∧
    (k8.heap.length ≠ k8.cfg.heapCap ∧
      k8.rq.length + (Entry.mk 250#32 1#8 :: k8.heap).countP (wakes k8.cfg k8.cnt) ≤ k8.cfg.rqCap) ∧
    (∀ e ∈ List.replicate 8 (Entry.mk 4#32 0#8), e.d.toNat < k8.cfg.mod) ∧
    (List.replicate 8 (Entry.mk 4#32 0#8)).length = k8.cfg.heapCap := by decide

theorem witness_DeadlineWaitIsReadyExactlyFromItsEndTime : k8.hostReady = true ∧ k8.cfg.wf = true ∧
    k8.cnt.toNat < k8.cfg.mod ∧ k8.tken = true ∧ (1#8).toNat < k8.cfg.ntask ∧
    ({ k8 with arg := 2#32 } : State).arg.toNat ≤ k8.cfg.maxDur ∧ 2 < (2#32).toNat + k8.cfg.half ∧
    (ticks 2 { k8 with arg := 2#32 }).isSome = true := by decide

theorem witness_TickAdvancesTheCounter : s8.fcause = 0#32 ∧ s8.cfg.wf = true ∧ Instr.tkNow ≠ .tick ∧
    isNext (exec .tkNow s8) = true := by decide

/-- Six ticks take CNT from 250 to 0, which is CMP. -/
theorem witness_TicksAddUp : s8.fatal = false ∧ s8.cfg.wf = true ∧ s8.cnt.toNat < s8.cfg.mod ∧
    s8.cmp.toNat = (s8.cnt.toNat + 6) % s8.cfg.mod ∧ 0 < 6 ∧ s8.cfg.mod ≤ s8.cnt.toNat + 6 ∧
    busy.cf = true ∧ busy.wf = true ∧ busy.fatal = false := by decide

theorem witness_SvcCmpServesTheHeap : busy.fcause = 0#32 ∧ busy.tken = true ∧ busy.cf = true ∧ busy.cie = true ∧
    busy.cfg.wf = true ∧ busy.cnt.toNat < busy.cfg.mod ∧ (∀ e ∈ busy.heap, e.d.toNat < busy.cfg.mod) ∧
    busy.rq.length + busy.wakeCount ≤ busy.cfg.rqCap := by decide

theorem witness_SvcWrapServesTheHeap : busy.fcause = 0#32 ∧ busy.tken = true ∧ busy.wf = true ∧ busy.cfg.wf = true ∧
    busy.cnt.toNat < busy.cfg.mod ∧ (∀ e ∈ busy.heap, e.d.toNat < busy.cfg.mod) ∧ busy.cnt.toNat < busy.cfg.half ∧
    busy.rq.length + busy.wakeCount ≤ busy.cfg.rqCap := by decide

/-- The same with HOST awake and an end time in ARG that is due now. -/
def fullAwake : State := { full with sleep := false, arg := 4#32 }

theorem witness_HeapServiceHaltsWhenTheQueueOverflows :
    (fullAwake.fcause = 0#32 ∧ fullAwake.tken = true ∧ fullAwake.cfg.wf = true ∧ fullAwake.cnt.toNat < fullAwake.cfg.mod ∧
      (∀ e ∈ fullAwake.heap, e.d.toNat < fullAwake.cfg.mod) ∧ fullAwake.InWindow ∧
      fullAwake.rq.length ≤ fullAwake.cfg.rqCap) ∧
    (fullAwake.cfg.rqCap < fullAwake.rq.length + fullAwake.wakeCount ∧ fullAwake.cf = true ∧ fullAwake.cie = true ∧
      fullAwake.wf = true) ∧
    (fullAwake.sleep = false ∧ (1#8).toNat < fullAwake.cfg.ntask ∧ fullAwake.arg.toNat < fullAwake.cfg.mod ∧
      fullAwake.heap.length ≠ fullAwake.cfg.heapCap ∧
      -(fullAwake.cfg.half : Int) < sdist fullAwake.cfg fullAwake.arg fullAwake.cnt ∧
      fullAwake.cfg.rqCap <
        fullAwake.rq.length + (Entry.mk fullAwake.arg 1#8 :: fullAwake.heap).countP (wakes fullAwake.cfg fullAwake.cnt)) := by
  decide

/-- At T = 10 (CNT = 4): the entries due at T = 10 and, the heartbeat of TK_INIT, at T = 127. -/
def timed : Timed := Timed.mk { busy with sleep := false, arg := 127#32 } 10 (fun e => if e.d = 4#32 then 10 else 127)

/-- An instruction that keeps the premise by itself, a TK_POLL whose end time 131 is due at T = 137, and a TICK. -/
theorem witness_WindowPremiseGivesTrueDeadlineOrder : cfg8.wf = true ∧
    (timed.block.cfg.wf = true ∧ timed.WindowPremise) ∧ timed.due (Entry.mk 121#32 0xFE#8) - 10 ≠ -128 ∧
    (timed.block.hostReady = true ∧ timed.block.arg.toNat ≤ timed.block.cfg.maxDur) ∧ (10 ≤ 265 ∧ 265 ≤ 10 + 127 + 128) ∧
    (Instr.svcCmp ≠ .tick ∧ isNext (exec .svcCmp timed.block) = true) ∧
    dueInWindow cfg8 10 (instantOf cfg8 131#32) 137 ∧
    (timed.block.fatal = false ∧ isNext (exec .tick timed.block) = true ∧ timed.block.InWindow ∧
      timed.block.cnt.toNat < timed.block.cfg.mod ∧ ∀ e ∈ timed.block.heap, e.d.toNat < timed.block.cfg.mod) := by decide

theorem witness_ShownTopIsNearest : (s8.hostReady = true ∧ s8.heap = []) ∧ (k8.hostReady = true ∧ k8.heap ≠ []) := by decide

/-- The reference array heap with four places, overdue by 3, due now and ahead, two of them equal. -/
def arrayHeap : State :=
  { k8 with cfg := { cfg8 with tie := .array }, cnt := 4#32,
            heap := [Entry.mk 1#32 1#8, Entry.mk 4#32 0#8, Entry.mk 121#32 0xFE#8, Entry.mk 4#32 0#8] }

theorem witness_ArrayHeapIsAnInstanceOfTheElection : arrayHeap.cfg.tie = .array ∧
    ArrayHeap arrayHeap.cfg arrayHeap.cnt arrayHeap.heap ∧ arrayHeap.heap.head? = some (Entry.mk 1#32 1#8) ∧
    arrayHeap.heapTop = some (Entry.mk 1#32 1#8) := by
  refine ⟨rfl, fun i j h => ?_, by decide, by decide⟩
  by_cases hj : j < 4
  · have key : ∀ i < 4, ∀ j < 4, j = 2 * i + 1 ∨ j = 2 * i + 2 →
        ltAt arrayHeap.cfg arrayHeap.cnt arrayHeap.heap j i = false := by decide
    exact key i (by omega) j hj h
  · have : arrayHeap.heap[j]? = none := List.getElem?_eq_none (by simp [arrayHeap]; omega)
    simp [ltAt, this]

theorem witness_EwSetWritesTheTarget : s8.hostReady = true ∧ s8.cfg.nslot ≤ (1#8).toNat ∧ (0#8).toNat < s8.cfg.nslot := by
  decide

theorem witness_EwPollComparesOrRegisters : s8.hostReady = true ∧ s8.cfg.ntask ≤ (2#8).toNat ∧
    s8.cfg.nslot ≤ (1#8).toNat ∧ ((1#8).toNat < s8.cfg.ntask ∧ s8.cfg.lineOfSlot[(0#8).toNat]? = some 0) ∧
    s8.pinAt 0 ≠ (s8.slotAt 0).target ∧
    ({ s8 with pin := [.low, .high, .high, .high] } : State).pinAt 0 = (s8.slotAt 0).target := by decide

theorem witness_PinStepDetectsEdges : s8.fcause = 0#32 ∧ (0 < s8.cfg.nline ∧ Level.low ≠ s8.pinAt 0) ∧
    (Level.low = .low ∧ s8.cfg.edgeFall[0]? = some true) ∧ (3 < s8.cfg.nline ∧ Level.low ≠ s8.pinAt 3) ∧
    ¬((Level.low = .high ∧ s8.cfg.edgeRise[3]? = some true) ∨ (Level.low = .low ∧ s8.cfg.edgeFall[3]? = some true)) := by
  decide

theorem witness_SvcEdgeTakesAndWakes :
    (busy.fcause = 0#32 ∧ busy.pendAt 3 = true ∧ busy.cfg.wf = true ∧ 3 ∉ busy.cfg.lineOfSlot) ∧
    (busy.pendAt 0 = true ∧ busy.cfg.lineOfSlot[0]? = some 0 ∧ (busy.slotAt 0).ws ≠ 0xFF#8 ∧
      busy.rq.length ≠ busy.cfg.rqCap) ∧
    ((full.slotAt 0).ws ≠ 0xFF#8 ∧ full.pendAt 0 = true ∧ full.rq.length = full.cfg.rqCap) ∧
    (({ busy with slots := [Slot.mk 0xFF#8 .low] } : State).slotAt 0).ws = 0xFF#8 := by decide

/-- Two slots, on lines 0 and 2, each with a waiter and a pending edge. -/
def twoWaiters : State :=
  { s8 with cfg := { cfg8 with lineOfSlot := [0, 2], edgeFall := [true, false, true, false] }, rq := [7#8],
            pend := [true, false, true, false], slots := [Slot.mk 0#8 .low, Slot.mk 1#8 .high] }

/-- Other steps and an EW_POLL of the other slot between the edges of slot 0, and a run of edges alone. -/
theorem witness_EdgesWakeEachWaiterAtMostOnce :
    (twoWaiters.cfg.wf = true ∧ twoWaiters.cfg.lineOfSlot[0]? = some 0 ∧
      (∀ tid slot, Instr.ewPoll tid slot ∈
        [Instr.svcEdge 0, .pin 0 .low, .exNext, .ewPoll 1#8 1#8, .svcEdge 2, .svcEdge 0] → slot.toNat ≠ 0) ∧
      edgeWoken 0 [.svcEdge 0, .pin 0 .low, .exNext, .ewPoll 1#8 1#8, .svcEdge 2, .svcEdge 0] twoWaiters = [0#8]) ∧
    ((∀ j ∈ [Instr.svcEdge 2, .pin 0 .low, .tick, .svcEdge 0],
        j = .tick ∨ (∃ l v, j = .pin l v) ∨ (∃ l, j = .svcEdge l)) ∧
      (execAll [.svcEdge 2, .pin 0 .low, .tick, .svcEdge 0] twoWaiters).map (fun u => (u.rq, u.waiterIds)) =
        some ([7#8, 1#8, 0#8], [])) := by
  refine ⟨⟨by decide, by decide, fun tid slot h => ?_, by decide⟩, by simp, by decide⟩
  simp only [List.mem_cons, reduceCtorEq, Instr.ewPoll.injEq, List.not_mem_nil, or_false, false_or] at h
  simp [h.2]

theorem witness_EdgeToTheTargetWakesTheWaiter : s8.Inv ∧ s8.hostReady = true ∧ (1#8).toNat < s8.cfg.ntask ∧
    s8.cfg.lineOfSlot[(0#8).toNat]? = some 0 ∧ s8.pinAt 0 ≠ (s8.slotAt (0#8).toNat).target ∧
    edgeEnabled s8.cfg 0 (s8.slotAt (0#8).toNat).target = true ∧ s8.rq.length < s8.cfg.rqCap := by decide

/-- A mailbox with a registered waker, with room in RQ and without. -/
def mail : State := { s8 with mboxes := [Mailbox.mk true 5#32 1#8], rq := [0#8, 1#8] }

theorem witness_MbSendStoresAndSignals : mail.hostReady = true ∧ mail.cfg.nmbox ≤ (1#8).toNat ∧
    (0#8).toNat < mail.cfg.nmbox ∧ (s8.mboxAt (0#8).toNat).mbw = 0xFF#8 ∧
    ((0#8).toNat < mail.mboxes.length ∧ (mail.mboxAt (0#8).toNat).mbw ≠ 0xFF#8 ∧ mail.rq.length ≠ mail.cfg.rqCap) ∧
    ({ mail with rq := [0#8, 1#8, 0#8, 1#8] } : State).rq.length = mail.cfg.rqCap := by decide

theorem witness_MbRecvRegistersThenTakes : mail.hostReady = true ∧ mail.cfg.ntask ≤ (2#8).toNat ∧
    mail.cfg.nmbox ≤ (1#8).toNat ∧ ((1#8).toNat < mail.cfg.ntask ∧ (0#8).toNat < mail.cfg.nmbox) ∧
    (mail.mboxAt (0#8).toNat).mbf = true ∧ (s8.mboxAt (0#8).toNat).mbf = false := by decide

theorem witness_SentItemIsReceivedExactlyOnce : mail.hostReady = true ∧ mail.ShapeOk ∧ (1#8).toNat < mail.cfg.ntask ∧
    (0#8).toNat < mail.cfg.nmbox ∧ mail.rq.length < mail.cfg.rqCap := by decide

theorem witness_SecondSendOverwritesTheFirst : mail.hostReady = true ∧ mail.ShapeOk ∧ (1#8).toNat < mail.cfg.ntask ∧
    (0#8).toNat < mail.cfg.nmbox ∧ mail.rq.length + 2 ≤ mail.cfg.rqCap ∧ (mail.mboxAt (0#8).toNat).mbw ≠ 0xFF#8 := by
  decide

/-- NTASK = RQ_CAP fits, and NTASK = RQ_CAP + 1 does not. -/
theorem witness_ExInitSeedsEveryTask : (s8.hostReady = true ∧ s8.cfg.wf = true ∧ s8.exen = false) ∧
    ({ cfg8 with ntask := 4 } : Config).ntask ≤ cfg8.rqCap ∧ ({ cfg8 with ntask := 4 } : Config).wf = true ∧
    cfg8.rqCap < ({ cfg8 with ntask := 5 } : Config).ntask ∧ ({ cfg8 with ntask := 5 } : Config).wf = true ∧
    (({ s8 with exen := true } : State).exen = true ∧ ({ s8 with exen := true } : State).hostReady = true) := by decide

theorem witness_WakeAppendsOrHalts : mail.hostReady = true ∧ mail.rq.length ≠ mail.cfg.rqCap ∧
    ({ mail with rq := [0#8, 1#8, 0#8, 1#8] } : State).rq.length = mail.cfg.rqCap := by decide

theorem witness_WakeWkKnowsItsWakers : mail.hostReady = true ∧ (0x57414A01#32 : Word).toNat / 256 ≠ 0x57414B ∧
    mail.cfg.ntask ≤ (0x57414B02#32 : Word).toNat % 256 ∧
    ((0x57414B01#32 : Word).toNat / 256 = 0x57414B ∧ (0x57414B01#32 : Word).toNat % 256 < mail.cfg.ntask) ∧
    mail.rq.length ≠ mail.cfg.rqCap ∧
    ({ mail with rq := [0#8, 1#8, 0#8, 1#8] } : State).rq.length = mail.cfg.rqCap := by decide

/-- The greatest valid identity and the least invalid one, as an operand and in a handle. -/
theorem witness_WkGetReturnsTheHandle : (s8.hostReady = true ∧ s8.cfg.ntask ≤ (2#8).toNat ∧ (1#8).toNat < s8.cfg.ntask) ∧
    knownWaker s8.cfg 0x57414B01#32 = true ∧ knownWaker s8.cfg 0x57414B02#32 = false ∧
    knownWaker s8.cfg 0x57414A01#32 = false := by decide

theorem witness_ExNextDequeuesAndValidates : (s8.hostReady = true ∧ s8.rq = []) ∧
    (mail.hostReady = true ∧ mail.rq = 0#8 :: [1#8] ∧ (1#8).toNat < mail.cfg.ntask ∧ mail.cfg.ntask ≤ (2#8).toNat) := by
  decide

theorem witness_ExSleepSleepsOnlyOnAnEmptyQueue : (s8.hostReady = true ∧ s8.rq = []) ∧
    (mail.hostReady = true ∧ mail.rq ≠ []) := by decide

theorem witness_WakesLeaveInTheirOrder : mail.hostReady = true ∧ mail.rq.length + [7#8, 1#8].length ≤ mail.cfg.rqCap ∧
    3 < (mail.rq ++ [7#8, 1#8]).length := by decide

theorem witness_StGetAnswersItsSelectors : s8.hostReady = true ∧ 8 ≤ (8#8).toNat ∧ ((5#8).toNat < 6 ∧ 1#8 ≠ 0#8) ∧
    ((6#8).toNat = 6 ∧ s8.cfg.nslot ≤ (1#8).toNat) ∧ ((7#8).toNat = 7 ∧ s8.cfg.nmbox ≤ (1#8).toNat) ∧
    s8.heap = [] ∧ (k8.hostReady = true ∧ k8.heapTop = some (Entry.mk 121#32 0xFE#8)) ∧
    (s8.cfg.wf = true ∧ s8.ShapeOk) ∧ (0#8).toNat < s8.cfg.nslot ∧ (0#8).toNat < s8.cfg.nmbox := by decide

theorem witness_TimerStateHasItsOnlyWriters : isNext (exec .tkNow { k8 with exen := true, cf := true, wf := true }) = true ∧
    (k8.cf = false ∧ k8.wf = false ∧ isNext (exec .tkNow k8) = true) ∧
    Instr.tkNow ≠ .tick ∧ Instr.tkNow ≠ .tkInit ∧ Instr.tkNow ≠ .svcCmp ∧ Instr.tkNow ≠ .svcWrap ∧
    Instr.tkNow ≠ .exInit ∧ ∀ tid, Instr.tkNow ≠ .tkPoll tid .init :=
  ⟨by decide, by decide, by decide, by decide, by decide, by decide, by decide, fun _ h => by cases h⟩

theorem witness_EdgeAndMailboxStateHaveTheirOnlyWriters : isNext (exec .tkNow s8) = true ∧
    (∀ l v, Instr.tkNow ≠ .pin l v) ∧ (∀ l, Instr.tkNow ≠ .svcEdge l) ∧ (∀ x v, Instr.tkNow ≠ .ewSet x v) ∧
    (∀ a b, Instr.tkNow ≠ .ewPoll a b) ∧ (∀ m, Instr.tkNow ≠ .mbSend m) ∧ ∀ a m, Instr.tkNow ≠ .mbRecv a m .init := by
  refine ⟨by decide, ?_, ?_, ?_, ?_, ?_, ?_⟩ <;> intros <;> exact Instr.noConfusion

theorem witness_PortStateHasItsOnlyWriters : isNext (exec .tick s8) = true ∧ Instr.tick.isHostOp = false ∧
    (after .tick s8).map State.fatal = some false ∧ (after .tick halted).map State.fatal = some true ∧
    halted.fatal = true := by decide

theorem witness_EveryStepKeepsTheInvariant : ({ busy with agenda := [.svcCmp] } : State).Inv ∧
    isNext (step { busy with agenda := [.svcCmp] }) = true := by decide

theorem witness_EveryStepKeepsTheNearestDeadlineCovered : ({ k8 with agenda := [.tick] } : State).Inv ∧
    ({ k8 with agenda := [.tick] } : State).InWindow ∧ ({ k8 with agenda := [.tick] } : State).Armed ∧
    isNext (step { k8 with agenda := [.tick] }) = true :=
  ⟨by decide, by decide, fun _ _ => ⟨Entry.mk 121#32 0xFE#8, by decide, by decide⟩, by decide⟩

/-- CNT = 0 with the heartbeat armed ahead in this wrap cycle. -/
def armed : State := { k8 with cnt := 0#32, cmp := 121#32, cie := true }

/-- The heartbeat beyond the wrap, and ahead in this wrap cycle. -/
theorem witness_TimerServiceIsEnabledByTheNearestDeadline :
    (k8.Inv ∧ k8.tken = true ∧ k8.fatal = false ∧ k8.heapTop = some (Entry.mk 121#32 0xFE#8) ∧
      k8.Covered (Entry.mk 121#32 0xFE#8)) ∧
    (armed.Inv ∧ armed.heapTop = some (Entry.mk 121#32 0xFE#8) ∧ armed.Covered (Entry.mk 121#32 0xFE#8)) :=
  ⟨by decide, by decide⟩

/-- One tick while the wrap service waits, with SVC_LAT = 2. -/
theorem witness_LatencyPremiseBoundsTheWrapService :
    ({ k8 with wf := true, cfg := { cfg8 with svcLat := 2 } } : State).svcWrapReady = true ∧
    latencyPremise [.tick] { k8 with wf := true, cfg := { cfg8 with svcLat := 2 } } ∧ Instr.svcWrap ∉ [Instr.tick] ∧
    (execAll [.tick] { k8 with wf := true, cfg := { cfg8 with svcLat := 2 } }).map State.fatal = some false ∧
    0 < [Instr.tick].count .tick := by
  refine ⟨by decide, ⟨?_, ?_, fun l => ?_⟩, by decide, by decide, by decide⟩ <;>
    · simp only [servedWithin, exec, execTick, State.when_eq]
      split <;> simp

/-- With SVC_LAT = 1 no tick may pass while the wrap service waits (R214: before SVC_LAT further TICK steps). -/
theorem test_latency_is_strict :
    ¬latencyPremise [.tick] { k8 with wf := true, cfg := { cfg8 with svcLat := 1 } } := by
  rintro ⟨-, h, -⟩
  simp [servedWithin, exec, execTick, State.when_eq, State.svcWrapReady, State.fatal, k8, s8, State.init] at h

theorem witness_NextPeriodFollowsTheWorkedNumbers : 99 < 100 ∧ 100 ≤ 100 ∧ (50 ≤ 50 ∧ 500 ≤ 500) := by decide

/-- The Button waits for Low and the line is Low. -/
def press : State := { k8 with pin := [.low, .high, .high, .high] }

theorem witness_ButtonSendsOnePressAndStartsTheWindow : press.Inv ∧ press.hostReady = true ∧ press.tken = true ∧
    Button.start.state = .waitForPress ∧ press.atTarget 0 = true ∧ press.heap.length < press.cfg.heapCap ∧
    press.rq.length + 1 + press.wakeCount ≤ press.cfg.rqCap := by decide

theorem witness_ButtonSendsNothingInTheWindow : press.Inv ∧ press.hostReady = true ∧ press.tken = true ∧
    (94#32).toNat < press.cfg.mod ∧ elapsed press.cfg 94#32 press.cnt = false := by decide

/-- A `Pressed` event in the mailbox of the LED, which waits in phase Wait with a period of 250 ticks. -/
def event : State := { k8 with mboxes := [Mailbox.mk true 1#32 1#8] }

theorem witness_LedTogglesOnceAndChangesThePeriod : event.Inv ∧ event.hostReady = true ∧ event.tken = true ∧
    2 ≤ event.cfg.ntask ∧ ({ Led.start false with rx := .wait, period := 250 } : Led).rx = .wait ∧
    (event.mboxAt 0).mbf = true ∧ (event.mboxAt 0).mbi = 1#32 ∧ nextPeriod 250 ≤ event.cfg.maxDur ∧
    event.heap.length < event.cfg.heapCap ∧ event.rq.length + event.wakeCount ≤ event.cfg.rqCap := by decide

/-! ## The reference clients -/

/-- P3 at tick 20, as far as the Button: one event, and the window's deadline 100 ticks ahead (250 + 100 = 94 mod 256). -/
theorem test_button_press : (let r := Button.poll 0#8 Button.start press
    (r.1, r.2.mboxes, r.2.heap.length)) =
    (Button.mk .debounce (WaitRecord.mk .wait 94#32), [Mailbox.mk true 1#32 0xFF#8], 2) := by decide

/-- S7: the LED takes the event at a period of 250 ticks. -/
theorem test_led_event : (Led.poll 1#8 { Led.start false with rx := .wait, period := 250 } event).1 =
    Led.mk .wait 125 .wait (WaitRecord.mk .wait 119#32) true := by decide

end Sys2Proof.Tests
end

section
/-! PROOFS. What the `reset` input loads (10_state.md R49, 70_reset_and_hazards.md R197). -/

namespace Sys2Proof.Machine

/-! ## What a well-formed parameter set says of the two reset parameters (00_scope.md R12) -/

theorem wf_cntReset_lt (c : Config) (h : c.wf = true) : c.cntReset < c.mod := by
  simp only [Config.wf, Config.cntResetOk, Bool.and_eq_true, decide_eq_true_eq] at h
  exact h.2

theorem wf_pinReset_length (c : Config) (h : c.wf = true) : c.pinReset.length = c.nline := by
  simp only [Config.wf, Config.linesOk, Bool.and_eq_true, decide_eq_true_eq] at h
  obtain ⟨⟨⟨⟨⟨-, -, hpin⟩, -⟩, -⟩, -⟩, -⟩ := h
  exact hpin

/-! ## The reset table read through the accessors -/

/-- CNT_RESET fits in the 32 bits that hold CNT, because it is below MOD. -/
theorem resetInput_cnt_toNat (s : State) (h : s.cfg.wf = true) : s.resetInput.cnt.toNat = s.cfg.cntReset := by
  have hlt : s.cfg.cntReset < 2 ^ 32 := (wf_cntReset_lt s.cfg h).trans_le (wf_mod_le s.cfg h)
  rw [State.resetInput_cnt, BitVec.toNat_ofNat, Nat.mod_eq_of_lt hlt]

theorem resetInput_pinAt (s : State) (h : s.cfg.wf = true) (l : Nat) (hl : l < s.cfg.nline) :
    s.cfg.pinReset[l]? = some (s.resetInput.pinAt l) := by
  have hlen : l < s.cfg.pinReset.length := (wf_pinReset_length s.cfg h).symm ▸ hl
  simp [State.pinAt, hlen]

@[simp] theorem resetInput_pendAt (s : State) (l : Nat) : s.resetInput.pendAt l = false := by
  rw [State.pendAt, State.resetInput_pend, List.getD_eq_getElem?_getD,
    List.getElem?_getD_replicate_default_eq]

@[simp] theorem resetInput_slotAt (s : State) (i : Nat) : s.resetInput.slotAt i = Slot.mk noTask Level.low := by
  rw [State.slotAt, State.resetInput_slots, List.getD_eq_getElem?_getD,
    List.getElem?_getD_replicate_default_eq]

@[simp] theorem resetInput_mboxAt (s : State) (m : Nat) : s.resetInput.mboxAt m = Mailbox.mk false 0#32 noTask := by
  rw [State.mboxAt, State.resetInput_mboxes, List.getD_eq_getElem?_getD,
    List.getElem?_getD_replicate_default_eq]

theorem resetInput_shapeOk (s : State) (h : s.cfg.wf = true) : s.resetInput.ShapeOk :=
  ⟨wf_pinReset_length s.cfg h, List.length_replicate, List.length_replicate, List.length_replicate⟩

theorem perform_reset (s : State) : perform .reset s = .next s.resetInput := rfl

/-- Settles O1: the scalar rows of the table are the field laws of `State.resetInput`; CNT and the level of each line rest on
the parameter set being admissible. -/
theorem resetInputLoadsTheResetTable : Obligations.ResetInputLoadsTheResetTable := by
  intro s h
  refine ⟨s.resetInput, perform_reset s, resetInput_cnt_toNat s h, ?_⟩
  have hpin := resetInput_pinAt s h
  have hshape := resetInput_shapeOk s h
  simpa [noTask] using And.intro hpin hshape

end Sys2Proof.Machine
end

section
/-! PROOFS. Which port accesses are refused, and by which name (20_memory.md R51, R55). -/

namespace Sys2Proof.Machine

theorem State.hostAsleep_eq_false_iff (s : State) : s.hostAsleep = false ↔ s.sleep = false ∨ s.fatal = true := by
  simp [State.hostAsleep, Decidable.imp_iff_not_or]

/-! ## Where an access goes: no register from 0x1C up, and none for a malformed access -/

theorem portRegAt_eq_none_of_le (off : Nat) (h : 0x1C ≤ off) : portRegAt off = none := by
  unfold portRegAt
  split
  case h_8 => rfl
  all_goals omega

theorem portAccess_narrow (off : Nat) (width : AccessWidth) (h : width ≠ .word) :
    portAccess off width = .error (.narrowAccess off) := by
  cases width with
  | byte => rfl
  | half => rfl
  | word => exact absurd rfl h

theorem portAccess_unaligned (off : Nat) (h : off % 4 ≠ 0) :
    portAccess off .word = .error (.unalignedAccess off) := if_pos h

theorem portAccess_outside (off : Nat) (hal : off % 4 = 0) (hout : 0x1C ≤ off) :
    portAccess off .word = .error (.outsideBlock off) := by
  simp [portAccess, hal, portRegAt_eq_none_of_le off hout]

/-! ## A HOST that is not asleep is told the refusal of its access -/

theorem hostWrite_refused (s : State) (off : Nat) (width : AccessWidth) (v : Word) (e : Refusal)
    (hs : s.hostAsleep = false) (he : portAccess off width = .error e) : hostWrite off width v s = .refused e := by
  simp [hostWrite, hs, he]

theorem hostRead_refused (s : State) (off : Nat) (width : AccessWidth) (e : Refusal)
    (hs : s.hostAsleep = false) (he : portAccess off width = .error e) : hostRead off width s = .refused e := by
  simp [hostRead, hs, he]

theorem perform_access_refused (s : State) (off : Nat) (width : AccessWidth) (v : Word) (e : Refusal)
    (hs : s.hostAsleep = false) (he : portAccess off width = .error e) :
    perform (.write off width v) s = .refused e ∧ perform (.read off width) s = .refused e :=
  ⟨hostWrite_refused s off width v e hs he, hostRead_refused s off width e hs he⟩

/-- Settles O12: each kind of malformed access has its refusal in `portAccess`, and a HOST that is not asleep, after the halt
as well, is answered with it. -/
theorem malformedAccessesAreRefused : Obligations.MalformedAccessesAreRefused := by
  intro s off v hawake
  have hs : s.hostAsleep = false := s.hostAsleep_eq_false_iff.mpr hawake
  refine ⟨fun width hw => ?_, fun hal => ?_, fun hal hout => ?_⟩
  · exact perform_access_refused s off width v _ hs (portAccess_narrow off width hw)
  · exact perform_access_refused s off .word v _ hs (portAccess_unaligned off hal)
  · exact perform_access_refused s off .word v _ hs (portAccess_outside off hal hout)

end Sys2Proof.Machine
end

section
/-! PROOFS. The test `w & mask = match` is the decoder's test of the fields (30_encoding.md R68, R72 to R74), and what a word
that is no operation does when it is written to CMD. -/

namespace Sys2Proof

/-! ## The fields of a masked word -/

theorem fieldOpc_and (v w : Word) : fieldOpc (v &&& w) = fieldOpc v &&& fieldOpc w := BitVec.extractLsb'_and

theorem fieldTid_and (v w : Word) : fieldTid (v &&& w) = fieldTid v &&& fieldTid w := BitVec.extractLsb'_and

theorem fieldIdx_and (v w : Word) : fieldIdx (v &&& w) = fieldIdx v &&& fieldIdx w := BitVec.extractLsb'_and

theorem fieldRsv_and (v w : Word) : fieldRsv (v &&& w) = fieldRsv v &&& fieldRsv w := BitVec.extractLsb'_and

theorem fieldB_and (v w : Word) : fieldB (v &&& w) = (fieldB v && fieldB w) := BitVec.getLsbD_and

/-- Two command words, the second with RSV zero, are equal when their five fields are (R67). -/
theorem eq_iff_fields (v w : Word) (hw : fieldRsv w = 0#7) :
    v = w ↔ fieldOpc v = fieldOpc w ∧ fieldTid v = fieldTid w ∧ fieldIdx v = fieldIdx w ∧ fieldB v = fieldB w ∧
      fieldRsv v = 0#7 := by
  constructor
  · rintro rfl
    exact ⟨rfl, rfl, rfl, rfl, hw⟩
  · rintro ⟨hopc, htid, hidx, hb, hrsv⟩
    rw [← packWord_fields v hrsv, hopc, htid, hidx, hb, packWord_fields w hw]

/-! ## The columns mask and match of R72, field by field -/

/-- The match of a row is its OPC, with every other field zero (R72). -/
theorem Opcode.matchWord_eq_packWord (o : Opcode) : o.matchWord = packWord o.code 0#8 0#8 false := by
  cases o <;> rfl

@[simp] theorem Opcode.fieldOpc_mask (o : Opcode) : fieldOpc o.mask = BitVec.allOnes 8 := by cases o <;> rfl

@[simp] theorem Opcode.fieldRsv_mask (o : Opcode) : fieldRsv o.mask = BitVec.allOnes 7 := by cases o <;> rfl

/-- The mask covers TID exactly in the rows whose format leaves TID zero (R68, R72). -/
theorem Opcode.fieldTid_mask (o : Opcode) :
    fieldTid o.mask = if o.format.usesTid then 0#8 else BitVec.allOnes 8 := by cases o <;> rfl

theorem Opcode.fieldIdx_mask (o : Opcode) :
    fieldIdx o.mask = if o.format.usesIdx then 0#8 else BitVec.allOnes 8 := by cases o <;> rfl

theorem Opcode.fieldB_mask (o : Opcode) : fieldB o.mask = !o.format.usesB := by cases o <;> rfl

/-- A field under its part of a mask is zero exactly when the format uses the field or the field is zero. -/
theorem and_ite_allOnes_eq_zero {n : Nat} (x : BitVec n) (used : Bool) :
    x &&& (if used then 0#n else BitVec.allOnes n) = 0#n ↔ (used || x == 0#n) = true := by
  cases used <;> simp

/-- A word passes the mask and match of a row exactly when it has the row's OPC and its format accepts it (R73, R74). -/
theorem Opcode.mask_eq_matchWord_iff (o : Opcode) (w : Word) :
    w &&& o.mask = o.matchWord ↔ o.code = fieldOpc w ∧ o.format.accepts w = true := by
  have htid := and_ite_allOnes_eq_zero (fieldTid w) o.format.usesTid
  have hidx := and_ite_allOnes_eq_zero (fieldIdx w) o.format.usesIdx
  have hb : (fieldB w && !o.format.usesB) = false ↔ (o.format.usesB || !fieldB w) = true := by
    cases o.format.usesB <;> simp
  rw [o.matchWord_eq_packWord, eq_iff_fields _ _ (fieldRsv_packWord _ _ _ _)]
  simp only [fieldOpc_and, fieldTid_and, fieldIdx_and, fieldB_and, fieldRsv_and, fieldOpc_packWord, fieldTid_packWord,
    fieldIdx_packWord, fieldB_packWord, Opcode.fieldOpc_mask, Opcode.fieldRsv_mask, Opcode.fieldTid_mask,
    Opcode.fieldIdx_mask, Opcode.fieldB_mask, BitVec.and_allOnes, htid, hidx, hb, Format.accepts, Bool.and_eq_true,
    beq_iff_eq, and_assoc, eq_comm (a := fieldOpc w)]

/-! ## The words that are no operation -/

theorem Opcode.ofCode_eq_some_iff (b : Byte) (o : Opcode) : Opcode.ofCode b = some o ↔ o.code = b :=
  ⟨Opcode.code_of_ofCode b o, fun h => h ▸ o.ofCode_code⟩

/-- A byte that the table's search does not find is in no row (R73). -/
theorem Opcode.code_ne_of_ofCode_eq_none (b : Byte) (h : Opcode.ofCode b = none) (o : Opcode) : o.code ≠ b := by
  rintro rfl
  simp at h

/-- A word decodes to an operation exactly when it passes the mask and match of the row of its OPC (R72 to R74). -/
theorem decode_eq_ok_iff_mask (w : Word) (i : Instr) :
    decode w = .ok i ↔ ∃ o : Opcode, w &&& o.mask = o.matchWord ∧ o.instr w = i := by
  simp only [decode_eq_ok, Opcode.ofCode_eq_some_iff, Opcode.mask_eq_matchWord_iff, and_assoc]

/-- A word that is in no row, or that fails the mask and match of its own row, is refused by the decoder. -/
theorem decode_eq_error_of_illegal (w : Word)
    (h : (∀ o : Opcode, o.code ≠ fieldOpc w) ∨ ∃ o : Opcode, o.code = fieldOpc w ∧ w &&& o.mask ≠ o.matchWord) :
    ∃ e, decode w = .error e := by
  cases hd : decode w with
  | error e => exact ⟨e, rfl⟩
  | ok i =>
    obtain ⟨o, hmask, -⟩ := (decode_eq_ok_iff_mask w i).mp hd
    have hcode : o.code = fieldOpc w := ((o.mask_eq_matchWord_iff w).mp hmask).1
    rcases h with hnone | ⟨o', hcode', hne⟩
    · exact absurd hcode (hnone o)
    · have hrow : o = o' := by
        rw [← Option.some_inj, ← o.ofCode_code, ← o'.ofCode_code, hcode, hcode']
      exact absurd hmask (hrow ▸ hne)

end Sys2Proof

namespace Sys2Proof.Machine

/-! ## A command word written while HOST may step -/

theorem State.hostReady_iff (s : State) : s.hostReady = true ↔ s.fatal = false ∧ s.sleep = false := by
  simp [State.hostReady]

theorem hostWrite_word_of_hostReady (s : State) (off : Nat) (r : PortReg) (v : Word) (hs : s.hostReady = true)
    (hr : portAccess off .word = .ok r) : hostWrite off .word v s = s.writeReg r v := by
  obtain ⟨hfatal, hsleep⟩ := s.hostReady_iff.mp hs
  have hawake : s.hostAsleep = false := s.hostAsleep_eq_false_iff.mpr (.inl hsleep)
  simp [hostWrite, hawake, hr, hfatal]

theorem step_of_agenda_cons (s : State) (e : Event) (rest : List Event) (h : s.agenda = e :: rest) :
    step s = perform e { s with agenda := rest } := by
  simp [step, nextEvent, h]

/-- A ready HOST with a write of CMD at the head of the agenda issues the word (R57, R79). -/
theorem step_cmdWrite (s : State) (w : Word) (rest : List Event) (h : s.agenda = .write 0x00 .word w :: rest)
    (hs : s.hostReady = true) : step s = ({ s with agenda := rest } : State).issue w := by
  rw [step_of_agenda_cons s _ rest h]
  exact hostWrite_word_of_hostReady _ 0x00 .cmd w hs rfl

/-- A word that the decoder refuses is stored in CMD and ends with ERR_ILLEGAL (R73, R74). -/
theorem State.issue_of_decode_error (s : State) (w : Word) (e : DecodeError) (h : decode w = .error e) :
    s.issue w = .next (({ s with cmd := w } : State).fail .errIllegal) := by
  simp [State.issue, h]

/-- Settles O10: the mask and match test is the decoder's own, so such a word is refused by `decode`, and the step that issues
a refused word stores it in CMD and writes the three result registers. -/
theorem illegalWordsReportErrIllegal : Obligations.IllegalWordsReportErrIllegal := by
  refine ⟨fun s w rest hag hs hw => ?_, ?_, ?_⟩
  · obtain ⟨e, he⟩ := decode_eq_error_of_illegal w hw
    rw [step_cmdWrite s w rest hag hs, State.issue_of_decode_error _ w e he]
    rfl
  · exact Opcode.code_ne_of_ofCode_eq_none _ (by decide)
  · exact Opcode.code_ne_of_ofCode_eq_none _ (by decide)

end Sys2Proof.Machine
end

section
/-! PROOFS. The tick operations: TICK and what keeps CNT (41_ticker.md R109), TK_NOW, TK_START (R105, R106), and the heartbeat
that TK_INIT inserts (R104). -/

namespace Sys2Proof.Machine

/-! ## What keeps CNT: the lines that follow a wake or `heap_service()`, for every ending k that keeps it -/

/-- A step that is taken, or offered where it is not enabled, keeps CNT when its effect does. -/
theorem State.cnt_of_when {s u t : State} {b : Bool} (h : s.when b u = .next t) (hu : u.cnt = s.cnt) : t.cnt = s.cnt := by
  rw [State.when_eq] at h
  cases h
  split
  · exact hu
  · rfl

theorem wake_finish_cnt (s : State) (t : Byte) (k : State → State) (hk : ∀ u, (k u).cnt = u.cnt) :
    ((s.wake t).finish k).cnt = s.cnt := by
  by_cases hfull : s.rq.length = s.cfg.rqCap
  · simp [wake_full s t hfull]
  · simp [wake_room s t hfull, hk]

theorem wakeAll_finish_cnt (ts : List Byte) (s : State) (k : State → State) (hk : ∀ u, (k u).cnt = u.cnt) :
    ((wakeAll ts s).finish k).cnt = s.cnt := by
  induction ts generalizing s with
  | nil => exact hk s
  | cons t ts ih =>
    by_cases hfull : s.rq.length = s.cfg.rqCap
    · simp [wakeAll, wake_full s t hfull]
    · simp [wakeAll, wake_room s t hfull, ih]

theorem wakeWaiter_finish_cnt (s : State) (t : Byte) (k : State → State) (hk : ∀ u, (k u).cnt = u.cnt) :
    ((s.wakeWaiter t).finish k).cnt = s.cnt := by
  unfold State.wakeWaiter
  split
  · exact hk s
  · exact wake_finish_cnt s t k hk

theorem signal_finish_cnt (s : State) (i : Nat) (k : State → State) (hk : ∀ u, (k u).cnt = u.cnt) :
    ((s.signal i).finish k).cnt = s.cnt := by
  unfold State.signal
  split
  · exact hk s
  · exact wake_finish_cnt s _ k hk

theorem edgeTake_finish_cnt (s : State) (l : Nat) (k : State → State) (hk : ∀ u, (k u).cnt = u.cnt) :
    ((s.edgeTake l).finish k).cnt = s.cnt := by
  unfold State.edgeTake
  split
  · exact hk s
  · exact wakeWaiter_finish_cnt _ _ k hk

theorem heapService_finish_cnt (s : State) (k : State → State) (hk : ∀ u, (k u).cnt = u.cnt) :
    (s.heapService.finish k).cnt = s.cnt := by
  rcases heapService_cases s with ⟨popped, h', hgo, -⟩ | ⟨popped, e, h', hhalt, -⟩
  · obtain ⟨_, _, _, _, harm, -⟩ := insertHeartbeat_arm (s.served popped h')
    rw [hgo, Flow.finish_go, hk, harm]
    rfl
  · rw [hhalt]
    rfl

theorem tkPollBody_cnt (tid : Byte) (ph : Phase) (s : State) : (tkPollBody tid ph s).cnt = s.cnt := by
  cases ph with
  | init =>
    simp only [tkPollBody]
    split
    · rfl
    · exact heapService_finish_cnt _ _ fun _ => rfl
  | wait => rfl

theorem mbRecvBody_cnt (tid mbox : Byte) (ph : Phase) (s : State) : (mbRecvBody tid mbox ph s).cnt = s.cnt := by
  cases ph with
  | init => rfl
  | wait =>
    simp only [mbRecvBody]
    split <;> rfl

@[simp] theorem State.reply_cnt (s : State) (r : StReply) : (s.reply r).cnt = s.cnt := by
  cases r <;> rfl

/-- Every instruction but TICK keeps CNT (R17, R109). -/
theorem exec_cnt_of_ne_tick (i : Instr) (s t : State) (hi : i ≠ .tick) (h : exec i s = .next t) : t.cnt = s.cnt := by
  cases i with
  | tick => exact absurd rfl hi
  | tkInit =>
    refine State.cnt_of_when h ?_
    split
    · rfl
    · exact heapService_finish_cnt s.tickerCleared _ fun _ => rfl
  | tkNow => exact State.cnt_of_when h rfl
  | tkStart => exact State.cnt_of_when h (by split <;> rfl)
  | tkPoll tid ph =>
    refine State.cnt_of_when h ?_
    split
    · rfl
    · split
      · rfl
      · exact tkPollBody_cnt tid ph s
  | ewSet slot lvl => exact State.cnt_of_when h (by split <;> rfl)
  | ewPoll tid slot =>
    refine State.cnt_of_when h ?_
    split
    · rfl
    · split <;> rfl
  | exInit =>
    refine State.cnt_of_when h ?_
    split
    · rfl
    · exact wakeAll_finish_cnt _ _ _ fun _ => rfl
  | wake tid => exact State.cnt_of_when h (wake_finish_cnt s tid _ fun _ => rfl)
  | wakeWk =>
    refine State.cnt_of_when h ?_
    split
    · exact wake_finish_cnt s _ _ fun _ => rfl
    · rfl
  | wkGet tid => exact State.cnt_of_when h (by split <;> rfl)
  | exNext => exact State.cnt_of_when h (by split <;> rfl)
  | exSleep => exact State.cnt_of_when h rfl
  | mbSend mbox =>
    refine State.cnt_of_when h ?_
    split
    · exact signal_finish_cnt (s.storeItem mbox.toNat s.arg) _ _ fun _ => rfl
    · rfl
  | mbRecv tid mbox ph =>
    refine State.cnt_of_when h ?_
    split
    · rfl
    · exact mbRecvBody_cnt tid mbox ph s
  | stGet sel sub => exact State.cnt_of_when h (s.reply_cnt _)
  | svcCmp => exact State.cnt_of_when h (heapService_finish_cnt _ _ fun _ => rfl)
  | svcWrap => exact State.cnt_of_when h (heapService_finish_cnt _ _ fun _ => rfl)
  | svcEdge l => exact State.cnt_of_when h (edgeTake_finish_cnt _ l _ fun _ => rfl)
  | pin l v => exact State.cnt_of_when h rfl

/-! ## TICK -/

theorem State.tickReady_iff (s : State) : s.tickReady = true ↔ s.fcause = 0#32 := by
  simp [State.tickReady, State.fatal]

theorem cfAfterTick_eq (s : State) (now : Word) : cfAfterTick s now = if now = s.cmp then true else s.cf := by
  by_cases h : now = s.cmp <;> simp [cfAfterTick, h]

theorem wfAfterTick_eq (s : State) (now : Word) : wfAfterTick s now = if now = 0#32 then true else s.wf := by
  by_cases h : now = 0#32 <;> simp [wfAfterTick, h]

theorem nextCnt_toNat (s : State) (h : s.cfg.wf = true) : s.nextCnt.toNat = (s.cnt.toNat + 1) % s.cfg.mod :=
  tAdd_toNat s.cfg (wf_mod_le s.cfg h) s.cnt 1#32

theorem exec_tick (s : State) (h : s.tickReady = true) :
    exec .tick s = .next { s with
      cnt := s.nextCnt, cf := cfAfterTick s s.nextCnt, wf := wfAfterTick s s.nextCnt } := by
  simp [exec, execTick, h]

/-- Settles O24: the effect of TICK is `exec_tick` with its two flags read as case distinctions, and no other instruction
writes CNT. -/
theorem tickAdvancesTheCounter : Obligations.TickAdvancesTheCounter := by
  refine fun s hwf => ⟨fun hf => ⟨s.nextCnt, nextCnt_toNat s hwf, ?_⟩, fun i t => exec_cnt_of_ne_tick i s t⟩
  rw [exec_tick s (s.tickReady_iff.mpr hf), cfAfterTick_eq, wfAfterTick_eq]

/-! ## TK_NOW and TK_START -/

theorem exec_tkNow (s : State) (h : s.hostReady = true) : exec .tkNow s = .next (s.done s.cnt 0#32) := by
  simp [exec, execTkNow, h]

/-- Settles O19: the end of an operation with CNT as its result writes the three result registers and nothing else. -/
theorem tkNowReturnsTheCounter : Obligations.TkNowReturnsTheCounter :=
  ⟨rfl, exec_tkNow⟩

theorem exec_tkStart_inRange (s : State) (h : s.hostReady = true) (hr : s.arg.toNat ≤ s.cfg.maxDur) :
    exec .tkStart s = .next (s.done (tAdd s.cfg s.cnt s.arg) 0#32) := by
  simp [exec, execTkStart, h, durationInRange, hr]

theorem exec_tkStart_outOfRange (s : State) (h : s.hostReady = true) (hr : s.cfg.maxDur < s.arg.toNat) :
    exec .tkStart s = .next (s.fail .errRange) := by
  simp [exec, execTkStart, h, durationInRange, hr]

/-- Settles O20: MAX_DUR is the bound of the range test, and CNT +t ARG is the sum modulo MOD because MOD fits in a word. -/
theorem tkStartReturnsTheEndTime : Obligations.TkStartReturnsTheEndTime := by
  refine ⟨rfl, fun s hs hwf => ⟨fun hr => ?_, fun hr => exec_tkStart_outOfRange s hs hr⟩⟩
  exact ⟨_, tAdd_toNat s.cfg (wf_mod_le s.cfg hwf) s.cnt s.arg, exec_tkStart_inRange s hs hr⟩

/-! ## TK_INIT -/

/-- HEARTBEAT_TICKS fits in the word that holds it, because it is at most MAX_DUR (R11). -/
theorem heartbeatTicks_toNat (c : Config) (h : c.wf = true) : (heartbeatTicks c).toNat = c.heartbeat := by
  have hle : c.heartbeat ≤ c.maxDur := by
    simp only [Config.wf, Config.heartbeatOk, Bool.and_eq_true, decide_eq_true_eq] at h
    obtain ⟨⟨-, -, hmax⟩, -⟩ := h
    exact hmax
  have hmod := wf_mod_eq c h
  have hword := wf_mod_le c h
  have hpos := half_pos c
  rw [Config.maxDur] at hle
  exact Nat.mod_eq_of_lt (by omega)

theorem heartbeatEntry_d_toNat (s : State) (h : s.cfg.wf = true) :
    s.heartbeatEntry.d.toNat = (s.cnt.toNat + s.cfg.heartbeat) % s.cfg.mod := by
  rw [State.heartbeatEntry, tAdd_toNat s.cfg (wf_mod_le s.cfg h), heartbeatTicks_toNat s.cfg h]

/-- A completed `heap_service()` run on an empty heap wakes nobody and arms for the heartbeat it inserts (R101 to R103). -/
theorem State.Serviced.of_nil {s t : State} (h : s.Serviced [] t) :
    t.rq = s.rq ∧ t.heap = [s.heartbeatEntry] ∧
      t.cmp = (if s.cnt.toNat < s.heartbeatEntry.d.toNat then s.heartbeatEntry.d else s.cmp) ∧
      t.cie = decide (s.cnt.toNat < s.heartbeatEntry.d.toNat) := by
  obtain ⟨popped, rest, hperm, -, -, -, -, hrq, hheap, e, htop, -, hcmp, hcie⟩ := h
  obtain ⟨rfl, rfl⟩ := List.append_eq_nil_iff.mp hperm.eq_nil
  have hone : t.heap = [s.heartbeatEntry] := hheap
  obtain rfl : s.heartbeatEntry = e := Option.some_inj.mp ((heapTop_of_singleton t _ hone).symm.trans htop)
  exact ⟨hrq.trans (List.append_nil _), hone, hcmp, hcie⟩

/-- A `heap_service()` run halts only at an entry, so not on an empty heap (R187). -/
theorem State.not_serviceHalted_nil (s t : State) : ¬ s.ServiceHalted [] t := by
  rintro ⟨popped, e, rest, hperm, -⟩
  exact absurd hperm.eq_nil (by simp)

/-- `heap_service()` on an empty heap writes H, its arrangement, CMP and CIE, and completes whatever RQ holds
(R101 to R103). -/
theorem heapService_of_heap_nil (s : State) (hw : s.cfg.wf = true) (hn : s.cnt.toNat < s.cfg.mod) (h0 : s.heap = []) :
    ∃ n, s.heapService = .go { s with
      heap := [s.heartbeatEntry], arrangement := n,
      cmp := if s.cnt.toNat < s.heartbeatEntry.d.toNat then s.heartbeatEntry.d else s.cmp,
      cie := decide (s.cnt.toNat < s.heartbeatEntry.d.toNat) } := by
  have hspec := heapService_spec s hw hn (by simp [h0])
  rw [h0] at hspec
  rcases hspec with ⟨t, hgo, hserved, hframe⟩ | ⟨t, -, hhalted, -⟩
  · obtain ⟨hrq, hheap, hcmp, hcie⟩ := hserved.of_nil
    refine ⟨t.arrangement, ?_⟩
    rw [hrq, hheap, hcmp, hcie] at hframe
    rw [hgo, hframe]
  · exact absurd hhalted (s.not_serviceHalted_nil t)

theorem exec_tkInit_again (s : State) (h : s.hostReady = true) (ht : s.tken = true) :
    exec .tkInit s = .next (s.fail .errState) := by
  simp [exec, execTkInit, h, ht]

theorem exec_tkInit_first (s : State) (h : s.hostReady = true) (ht : s.tken = false) :
    exec .tkInit s = .next (s.tickerCleared.heapService.finish (fun t => t.done 0#32 0#32)) := by
  simp [exec, execTkInit, h, ht]

/-- Settles O18: TK_INIT runs `heap_service()` on the heap it has just emptied, so the heartbeat is all that H then holds and
what the compare register is armed for. -/
theorem tkInitEstablishesTheHeartbeat : Obligations.TkInitEstablishesTheHeartbeat := by
  refine ⟨rfl, fun s hs hwf hn => ⟨exec_tkInit_again s hs, fun ht => ?_⟩⟩
  obtain ⟨n, hservice⟩ := heapService_of_heap_nil s.tickerCleared hwf hn rfl
  refine ⟨s.heartbeatEntry.d, heartbeatEntry_d_toNat s hwf, n, ?_⟩
  rw [exec_tkInit_first s hs ht, hservice]
  rfl

end Sys2Proof.Machine
end

section
/-! PROOFS. The edge synchroniser: EW_SET (42_edge.md R122), the edge test of PIN(l, v) (R126), and what SVC_EDGE(l) does with
the waiter of a line's slot (R127, R128). -/

namespace Sys2Proof

/-! ## A command word as the bitwise or of its shifted fields (30_encoding.md R67) -/

theorem packWord_eq_or (opc tid idx : Byte) (b : Bool) :
    packWord opc tid idx b = opc.zeroExtend 32 <<< 24 ||| tid.zeroExtend 32 <<< 16 ||| idx.zeroExtend 32 <<< 8 |||
      BitVec.ofNat 32 b.toNat := by
  have hb : (BitVec.ofBool b).setWidth 32 = BitVec.ofNat 32 b.toNat := by cases b <;> rfl
  rw [← BitVec.setWidth_eq (packWord opc tid idx b)]
  simp only [packWord, BitVec.setWidth_append_eq_shiftLeft_setWidth_or, BitVec.shiftLeft_or_distrib,
    ← BitVec.shiftLeft_add, hb]
  simp

end Sys2Proof

namespace Sys2Proof.Machine

/-! ## EW_SET -/

theorem slotInRange_iff (c : Config) (slot : Byte) : slotInRange c slot = true ↔ slot.toNat < c.nslot := by
  simp [slotInRange]

theorem exec_ewSet_inRange (s : State) (slot : Byte) (lvl : Level) (h : s.hostReady = true)
    (hr : slot.toNat < s.cfg.nslot) : exec (.ewSet slot lvl) s = .next ((s.setTarget slot.toNat lvl).done 0#32 0#32) := by
  simp [exec, execEwSet, h, (slotInRange_iff s.cfg slot).mpr hr]

theorem exec_ewSet_outOfRange (s : State) (slot : Byte) (lvl : Level) (h : s.hostReady = true)
    (hr : s.cfg.nslot ≤ slot.toNat) : exec (.ewSet slot lvl) s = .next (s.fail .errRange) := by
  have hout : slotInRange s.cfg slot ≠ true := mt (slotInRange_iff s.cfg slot).mp hr.not_gt
  simp [exec, execEwSet, h, hout]

theorem encode_ewSet (slot : Byte) (lvl : Level) : encode (.ewSet slot lvl) =
    some (0x20000000#32 ||| slot.zeroExtend 32 <<< 8 ||| BitVec.ofNat 32 lvl.toBool.toNat) := by
  rw [encode, packWord_eq_or]
  rfl

/-- Settles O32: the command word is its fields packed, NSLOT is the bound of the range test, and the completing branch is
the write of one TARGET followed by the end of the operation. -/
theorem ewSetWritesTheTarget : Obligations.EwSetWritesTheTarget := by
  intro s slot lvl
  refine ⟨encode_ewSet slot lvl, fun hs => ⟨fun hr => ?_, fun hr => ?_⟩⟩
  · exact exec_ewSet_outOfRange s slot lvl hs hr
  · exact exec_ewSet_inRange s slot lvl hs hr

/-! ## PIN -/

theorem State.pinReady_iff (s : State) (l : Nat) (v : Level) :
    s.pinReady l v = true ↔ s.fcause = 0#32 ∧ l < s.cfg.nline ∧ v ≠ s.pinAt l := by
  simp [State.pinReady, State.fatal, and_assoc]

/-- The edge test of R126, for a line that may have no EDGE_RISE or EDGE_FALL bit. -/
theorem edgeEnabled_iff (c : Config) (l : Nat) (v : Level) : edgeEnabled c l v = true ↔
    (v = .high ∧ c.edgeRise[l]? = some true) ∨ (v = .low ∧ c.edgeFall[l]? = some true) := by
  cases v with
  | high => cases h : c.edgeRise[l]? <;> simp [edgeEnabled, h]
  | low => cases h : c.edgeFall[l]? <;> simp [edgeEnabled, h]

theorem exec_pin (s : State) (l : Nat) (v : Level) (h : s.pinReady l v = true) :
    exec (.pin l v) s = .next { s with
      pin := s.pin.set l v, pend := if edgeEnabled s.cfg l v = true then s.pend.set l true else s.pend } := by
  simp [exec, execPin, h]

/-- Settles O34: the enabling condition of R126 makes the step happen, and its edge test decides between the two writes of
PEND. -/
theorem pinStepDetectsEdges : Obligations.PinStepDetectsEdges := by
  intro s l v hf hl hv
  have hpin := exec_pin s l v ((s.pinReady_iff l v).mpr ⟨hf, hl, hv⟩)
  refine ⟨fun hedge => ?_, fun hnone => ?_⟩
  · rw [hpin, if_pos ((edgeEnabled_iff s.cfg l v).mpr hedge)]
  · rw [hpin, if_neg (mt (edgeEnabled_iff s.cfg l v).mp hnone)]

/-! ## The slot of a line -/

theorem wf_lineOfSlot_nodup (c : Config) (h : c.wf = true) : c.lineOfSlot.Nodup := by
  simp only [Config.wf, Config.slotsOk, Bool.and_eq_true, decide_eq_true_eq] at h
  obtain ⟨⟨⟨⟨-, -, hnodup⟩, -⟩, -⟩, -⟩ := h
  exact hnodup

theorem slotOfLine_eq_none_iff (c : Config) (l : Nat) : slotOfLine c l = none ↔ l ∉ c.lineOfSlot := by
  simp [slotOfLine, List.forall_mem_ne']

/-- SLOT_OF_LINE inverts LINE_OF_SLOT, because no line has two slots (R9, R119). -/
theorem slotOfLine_of_lineOfSlot (c : Config) (h : c.wf = true) (i l : Nat) (hi : c.lineOfSlot[i]? = some l) :
    slotOfLine c l = some i := by
  obtain ⟨hlt, rfl⟩ := List.getElem?_eq_some_iff.mp hi
  refine List.findIdx?_eq_some_iff_getElem.mpr ⟨hlt, beq_self_eq_true _, fun j hj heq => ?_⟩
  exact hj.ne ((wf_lineOfSlot_nodup c h).getElem_inj_iff.mp (eq_of_beq heq))

/-! ## SVC_EDGE -/

theorem wakeWaiter_of_eq (s : State) (t : Byte) (h : t = noTask) : s.wakeWaiter t = .go s := if_pos h

theorem wakeWaiter_of_ne (s : State) (t : Byte) (h : t ≠ noTask) : s.wakeWaiter t = s.wake t := if_neg h

theorem edgeTake_unconfigured (s : State) (l : Nat) (h : l ∉ s.cfg.lineOfSlot) : s.edgeTake l = .go s := by
  simp [State.edgeTake, (slotOfLine_eq_none_iff s.cfg l).mpr h]

theorem edgeTake_of_lineOfSlot (s : State) (i l : Nat) (hw : s.cfg.wf = true) (hi : s.cfg.lineOfSlot[i]? = some l) :
    s.edgeTake l = (s.setWs i noTask).wakeWaiter (s.slotAt i).ws := by
  simp [State.edgeTake, slotOfLine_of_lineOfSlot s.cfg hw i l hi]

theorem State.svcEdgeReady_iff (s : State) (l : Nat) :
    s.svcEdgeReady l = true ↔ s.fcause = 0#32 ∧ s.pendAt l = true := by
  simp [State.svcEdgeReady, State.fatal]

/-- The first write of SVC_EDGE(l), `PEND[l] <- 0` (R127). -/
def State.clearPend (s : State) (l : Nat) : State := { s with pend := s.pend.set l false }

theorem exec_svcEdge (s : State) (l : Nat) (h : s.svcEdgeReady l = true) :
    exec (.svcEdge l) s = .next (((s.clearPend l).edgeTake l).finish (fun t => { t with sleep := false })) := by
  simp [exec, execSvcEdge, h, State.clearPend]

/-- Settles O35: after PEND[l] is cleared, the line has no slot, a slot without a waiter, or a slot whose waiter meets a queue
with room or a full one; the halt skips the last line, which clears SLEEP. -/
theorem svcEdgeTakesAndWakes : Obligations.SvcEdgeTakesAndWakes := by
  intro s l hf hp hwf
  have hexec := exec_svcEdge s l ((s.svcEdgeReady_iff l).mpr ⟨hf, hp⟩)
  refine ⟨fun hl => ?_, fun i hi => ?_⟩
  · rw [hexec, edgeTake_unconfigured (s.clearPend l) l hl]
    rfl
  · have htake : (s.clearPend l).edgeTake l = ((s.clearPend l).setWs i noTask).wakeWaiter (s.slotAt i).ws :=
      edgeTake_of_lineOfSlot (s.clearPend l) i l hwf hi
    refine ⟨fun hnone => ?_, fun hsome hroom => ?_, fun hsome hfull => ?_⟩
    · rw [hexec, htake, wakeWaiter_of_eq _ _ hnone]
      rfl
    · rw [hexec, htake, wakeWaiter_of_ne _ _ hsome, wake_room ((s.clearPend l).setWs i noTask) _ hroom]
      rfl
    · rw [hexec, htake, wakeWaiter_of_ne _ _ hsome, wake_full ((s.clearPend l).setWs i noTask) _ hfull]
      rfl

end Sys2Proof.Machine
end

section
/-! PROOFS. The event mailbox: MB_SEND stores and then signals (43_mailbox.md R133), MB_RECV registers in phase Init and takes
in phase Wait (R134). -/

namespace Sys2Proof.Machine

/-! ## One mailbox after a store -/

theorem mboxInRange_iff (c : Config) (m : Byte) : mboxInRange c m = true ↔ m.toNat < c.nmbox := by
  simp [mboxInRange]

/-- A store leaves the registration as it is. An index past the list, where there is nothing to store into, reads as a mailbox
without a waker before and after (log 7). -/
theorem storeItem_mboxAt_mbw (s : State) (i : Nat) (v : Word) :
    ((s.storeItem i v).mboxAt i).mbw = (s.mboxAt i).mbw := by
  by_cases h : i < s.mboxes.length <;> simp [State.mboxAt, h]

/-- The signal after a store wakes the waker that was registered before it. -/
theorem storeItem_signal (s : State) (i : Nat) (v : Word) :
    (s.storeItem i v).signal i = (s.storeItem i v).wakeWaiter (s.mboxAt i).mbw := by
  rw [← storeItem_mboxAt_mbw s i v]
  rfl

theorem storeItem_of_mbw (s : State) (i : Nat) (v : Word) (w : Byte) (hw : (s.mboxAt i).mbw = w) :
    s.storeItem i v = { s with mboxes := s.mboxes.set i (Mailbox.mk true v w) } := by
  subst hw
  rfl

/-! ## MB_SEND -/

theorem encode_mbSend (m : Byte) : encode (.mbSend m) = some (0x40000000#32 ||| m.zeroExtend 32 <<< 8) := by
  rw [encode, packWord_eq_or]
  simp

theorem exec_mbSend_outOfRange (s : State) (m : Byte) (h : s.hostReady = true) (hr : s.cfg.nmbox ≤ m.toNat) :
    exec (.mbSend m) s = .next (s.fail .errRange) := by
  have hout : mboxInRange s.cfg m ≠ true := mt (mboxInRange_iff s.cfg m).mp hr.not_gt
  simp [exec, execMbSend, h, hout]

theorem exec_mbSend_inRange (s : State) (m : Byte) (h : s.hostReady = true) (hr : m.toNat < s.cfg.nmbox) :
    exec (.mbSend m) s = .next (((s.storeItem m.toNat s.arg).wakeWaiter (s.mboxAt m.toNat).mbw).finish
      (fun t => t.done 0#32 0#32)) := by
  simp [exec, execMbSend, h, (mboxInRange_iff s.cfg m).mpr hr, storeItem_signal]

/-- Settles O38: the waker signalled after the store is the one registered before it, and it is absent, meets a queue with
room, or meets a full one; the halt keeps the store and skips the end of the operation. -/
theorem mbSendStoresAndSignals : Obligations.MbSendStoresAndSignals := by
  intro s m
  refine ⟨encode_mbSend m, fun hs => ⟨exec_mbSend_outOfRange s m hs, fun hr => ?_⟩⟩
  have hexec := exec_mbSend_inRange s m hs hr
  refine ⟨fun hnone => ?_, fun _ hsome hroom => ?_, fun _ hsome hfull => ?_⟩
  · rw [hexec, wakeWaiter_of_eq _ _ hnone, storeItem_of_mbw s _ _ _ hnone]
    rfl
  · rw [hexec, wakeWaiter_of_ne _ _ hsome, wake_room (s.storeItem m.toNat s.arg) _ hroom]
    rfl
  · rw [hexec, wakeWaiter_of_ne _ _ hsome, wake_full (s.storeItem m.toNat s.arg) _ hfull]
    rfl

/-! ## MB_RECV -/

theorem validTid_iff (c : Config) (t : Byte) : validTid c t = true ↔ t.toNat < c.ntask := by
  simp [validTid]

theorem encode_mbRecv (tid m : Byte) (ph : Phase) : encode (.mbRecv tid m ph) =
    some (0x41000000#32 ||| tid.zeroExtend 32 <<< 16 ||| m.zeroExtend 32 <<< 8 |||
      BitVec.ofNat 32 ph.toBool.toNat) := by
  rw [encode, packWord_eq_or]
  rfl

theorem exec_mbRecv_outOfRange (s : State) (tid m : Byte) (ph : Phase) (h : s.hostReady = true)
    (hr : s.cfg.ntask ≤ tid.toNat ∨ s.cfg.nmbox ≤ m.toNat) :
    exec (.mbRecv tid m ph) s = .next (s.fail .errRange) := by
  have hout : ¬(validTid s.cfg tid = true ∧ mboxInRange s.cfg m = true) := by
    rw [validTid_iff, mboxInRange_iff]
    omega
  simp [exec, execMbRecv, h, hout]

theorem exec_mbRecv_inRange (s : State) (tid m : Byte) (ph : Phase) (h : s.hostReady = true)
    (ht : tid.toNat < s.cfg.ntask) (hm : m.toNat < s.cfg.nmbox) :
    exec (.mbRecv tid m ph) s = .next (mbRecvBody tid m ph s) := by
  simp [exec, execMbRecv, h, (validTid_iff s.cfg tid).mpr ht, (mboxInRange_iff s.cfg m).mpr hm]

/-- A take depends on the item alone: neither the caller nor the registered waker is read. -/
theorem mbRecvBody_wait_present (s : State) (tid m : Byte) (h : (s.mboxAt m.toNat).mbf = true) :
    mbRecvBody tid m .wait s = (s.takeItem m.toNat).done 3#32 (s.mboxAt m.toNat).mbi :=
  if_pos h

theorem mbRecvBody_wait_absent (s : State) (tid m : Byte) (h : (s.mboxAt m.toNat).mbf = false) :
    mbRecvBody tid m .wait s = s.done 2#32 0#32 :=
  if_neg (ne_true_of_eq_false h)

/-- Settles O39: in range the phase decides between the registration, which reads no item, and the test of the item slot. -/
theorem mbRecvRegistersThenTakes : Obligations.MbRecvRegistersThenTakes := by
  intro s tid m ph
  refine ⟨encode_mbRecv tid m ph, fun hs => ⟨exec_mbRecv_outOfRange s tid m ph hs, fun ht hm => ?_⟩⟩
  refine ⟨exec_mbRecv_inRange s tid m .init hs ht hm, fun hfull => ?_, fun hempty => ?_⟩
  · rw [exec_mbRecv_inRange s tid m .wait hs ht hm, mbRecvBody_wait_present s tid m hfull]
    rfl
  · rw [exec_mbRecv_inRange s tid m .wait hs ht hm, mbRecvBody_wait_absent s tid m hempty]
    rfl

end Sys2Proof.Machine
end

section
/-! PROOFS. The ready queue's host operations: WAKE, WAKE_WK, WK_GET and EX_NEXT (44_executor.md R143 to R145, R147, R148), and
EX_INIT, whose wakes are one run up to the first raise (R142). -/

namespace Sys2Proof.Machine

/-- The info word of an identity given by its number (R139): `setWidth_ofNat_of_le_of_lt` in the spelling `zeroExtend` of the
model. -/
theorem zeroExtend_ofNat_of_lt (n : Nat) (h : n < 256) : (BitVec.ofNat 8 n).zeroExtend 32 = BitVec.ofNat 32 n :=
  BitVec.setWidth_ofNat_of_le_of_lt (by decide) h

/-! ## WAKE -/

theorem encode_wake (tid : Byte) : encode (.wake tid) = some (0x31000000#32 ||| tid.zeroExtend 32 <<< 16) := by
  rw [encode, packWord_eq_or]
  simp

theorem exec_wake (s : State) (tid : Byte) (h : s.hostReady = true) :
    exec (.wake tid) s = .next ((s.wake tid).finish (fun t => t.done 0#32 0#32)) := by
  simp [exec, execWake, h]

/-- Settles O43: the fullness of RQ alone decides between the append and the halt; no test of the value stands before it. -/
theorem wakeAppendsOrHalts : Obligations.WakeAppendsOrHalts := by
  intro s tid
  refine ⟨encode_wake tid, fun hs => ⟨fun hroom => ?_, fun hfull => ?_⟩⟩
  · rw [exec_wake s tid hs, wake_room s tid hroom]
    rfl
  · rw [exec_wake s tid hs, wake_full s tid hfull]
    rfl

/-! ## Waker handles (R147) -/

theorem wakerHandle_toNat (t : Byte) : (wakerHandle t).toNat = 0x57414B00 + t.toNat := by
  have ht : t.toNat < 2 ^ 8 := t.isLt
  rw [wakerHandle, BitVec.toNat_append, ← Nat.shiftLeft_add_eq_or_of_lt ht, Nat.shiftLeft_eq]
  simp [wakerMagic]

theorem wakerTid_eq_ofNat (v : Word) : wakerTid v = BitVec.ofNat 8 (v.toNat % 256) := by
  simp [wakerTid, ← BitVec.toNat_inj]

theorem extractMagic_eq_iff (v : Word) : v.extractLsb' 8 24 = wakerMagic ↔ v.toNat / 256 = 0x57414B := by
  rw [← BitVec.toNat_inj, BitVec.extractLsb'_toNat, Nat.shiftRight_eq_div_pow, wakerMagic, BitVec.toNat_ofNat]
  omega

theorem knownWaker_iff (c : Config) (v : Word) :
    knownWaker c v = true ↔ v.toNat / 256 = 0x57414B ∧ v.toNat % 256 < c.ntask := by
  simp [knownWaker, extractMagic_eq_iff, validTid_iff, wakerTid_eq_ofNat]

/-- The known wakers are the handles of the valid tasks. -/
theorem knownWaker_iff_exists_handle (c : Config) (v : Word) :
    knownWaker c v = true ↔ ∃ t : Byte, t.toNat < c.ntask ∧ v = wakerHandle t := by
  rw [knownWaker_iff]
  constructor
  · rintro ⟨hmagic, htid⟩
    have hlow : (wakerTid v).toNat = v.toNat % 256 := by simp [wakerTid_eq_ofNat]
    refine ⟨wakerTid v, hlow ▸ htid, BitVec.eq_of_toNat_eq ?_⟩
    rw [wakerHandle_toNat, hlow]
    omega
  · rintro ⟨t, ht, rfl⟩
    rw [wakerHandle_toNat]
    omega

/-! ## WAKE_WK -/

theorem exec_wakeWk_known (s : State) (h : s.hostReady = true) (hk : knownWaker s.cfg s.arg = true) :
    exec .wakeWk s = .next ((s.wake (wakerTid s.arg)).finish (fun t => t.done 0#32 0#32)) := by
  simp [exec, execWakeWk, h, hk]

theorem exec_wakeWk_unknown (s : State) (h : s.hostReady = true) (hk : knownWaker s.cfg s.arg ≠ true) :
    exec .wakeWk s = .next (s.raiseFatal .unknownWaker s.arg) := by
  simp [exec, execWakeWk, h, hk]

/-- Settles O44: the waker test is the one of R147 on ARG, and RQ is looked at only once it has passed. -/
theorem wakeWkKnowsItsWakers : Obligations.WakeWkKnowsItsWakers := by
  refine ⟨rfl, fun s hs => ⟨fun hunknown => ?_, fun hmagic htid => ?_⟩⟩
  · refine exec_wakeWk_unknown s hs (mt (knownWaker_iff s.cfg s.arg).mp ?_)
    omega
  · have hexec := exec_wakeWk_known s hs ((knownWaker_iff s.cfg s.arg).mpr ⟨hmagic, htid⟩)
    rw [wakerTid_eq_ofNat] at hexec
    refine ⟨fun hroom => ?_, fun hfull => ?_⟩
    · rw [hexec, wake_room s _ hroom]
      rfl
    · rw [hexec, wake_full s _ hfull, zeroExtend_ofNat_of_lt _ (Nat.mod_lt _ (by decide))]
      rfl

/-! ## WK_GET -/

theorem encode_wkGet (tid : Byte) : encode (.wkGet tid) = some (0x33000000#32 ||| tid.zeroExtend 32 <<< 16) := by
  rw [encode, packWord_eq_or]
  simp

theorem exec_wkGet_inRange (s : State) (tid : Byte) (h : s.hostReady = true) (ht : tid.toNat < s.cfg.ntask) :
    exec (.wkGet tid) s = .next (s.done (wakerHandle tid) 0#32) := by
  simp [exec, execWkGet, h, (validTid_iff s.cfg tid).mpr ht]

theorem exec_wkGet_outOfRange (s : State) (tid : Byte) (h : s.hostReady = true) (ht : s.cfg.ntask ≤ tid.toNat) :
    exec (.wkGet tid) s = .next (s.fail .errRange) := by
  have hout : validTid s.cfg tid ≠ true := mt (validTid_iff s.cfg tid).mp ht.not_gt
  simp [exec, execWkGet, h, hout]

/-- WK_GET answers OK with v exactly when the task is valid and v is its handle: a refusal differs in STATUS. -/
theorem exec_wkGet_eq_done_iff (s : State) (tid : Byte) (v : Word) (h : s.hostReady = true) :
    exec (.wkGet tid) s = .next (s.done v 0#32) ↔ tid.toNat < s.cfg.ntask ∧ v = wakerHandle tid := by
  rcases Nat.lt_or_ge tid.toNat s.cfg.ntask with ht | ht
  · rw [exec_wkGet_inRange s tid h ht]
    simp [State.done, ht, eq_comm]
  · rw [exec_wkGet_outOfRange s tid h ht]
    simp [State.done, State.fail, statusWord, ht.not_gt]

/-- Settles O45: the handles that WK_GET answers are those of the valid tasks, and so are the known wakers. -/
theorem wkGetReturnsTheHandle : Obligations.WkGetReturnsTheHandle := by
  refine ⟨knownWaker_iff, fun s tid => ⟨encode_wkGet tid, fun hs => ⟨?_, fun ht => ?_, fun v => ?_⟩⟩⟩
  · exact exec_wkGet_outOfRange s tid hs
  · exact ⟨wakerHandle tid, wakerHandle_toNat tid, exec_wkGet_inRange s tid hs ht⟩
  · rw [knownWaker_iff_exists_handle]
    exact exists_congr fun t => (exec_wkGet_eq_done_iff s t v hs).symm

/-! ## EX_NEXT -/

theorem exec_exNext_nil (s : State) (h : s.hostReady = true) (hrq : s.rq = []) :
    exec .exNext s = .next (s.done 0#32 0#32) := by
  simp [exec, execExNext, h, hrq, nextKindWord]

theorem exec_exNext_cons (s : State) (t : Byte) (ts : List Byte) (h : s.hostReady = true) (hrq : s.rq = t :: ts) :
    exec .exNext s = .next (({ s with rq := ts } : State).done
      (nextKindWord (if t.toNat < s.cfg.ntask then .task else .skip)) (t.zeroExtend 32)) := by
  simp [exec, execExNext, h, hrq, validTid_iff]

/-- Settles O46: RQ is empty, or its head leaves it and the range test of the head names the kind. -/
theorem exNextDequeuesAndValidates : Obligations.ExNextDequeuesAndValidates := by
  refine ⟨rfl, fun s hs => ⟨exec_exNext_nil s hs, fun t ts hrq => ⟨fun hvalid => ?_, fun hinvalid => ?_⟩⟩⟩
  · rw [exec_exNext_cons s t ts hs hrq, if_pos hvalid]
    rfl
  · rw [exec_exNext_cons s t ts hs hrq, if_neg hinvalid.not_gt]
    rfl

/-! ## A run of wakes: it appends while there is room, and halts at the first identity past the last place -/

theorem wakeAll_append (ts us : List Byte) (s : State) :
    wakeAll (ts ++ us) s = (wakeAll ts s).andThen (wakeAll us) := by
  induction ts generalizing s with
  | nil => rfl
  | cons t ts ih =>
    rw [List.cons_append, wakeAll, wakeAll]
    cases s.wake t with
    | go u => exact ih u
    | halt u => rfl

theorem wakeAll_room (ts : List Byte) (s : State) (h : s.rq.length + ts.length ≤ s.cfg.rqCap) :
    wakeAll ts s = .go { s with rq := s.rq ++ ts } := by
  induction ts generalizing s with
  | nil => simp [wakeAll]
  | cons t ts ih =>
    rw [List.length_cons] at h
    have hrest : (s.rqAppend t).rq.length + ts.length ≤ s.cfg.rqCap := by
      rw [State.rqAppend_rq, List.length_append, List.length_singleton]
      omega
    rw [wakeAll, wake_room s t (by omega), Flow.andThen_go, ih (s.rqAppend t) hrest]
    simp [State.rqAppend]

theorem wakeAll_overflow (ts us : List Byte) (t : Byte) (s : State) (h : s.rq.length + ts.length = s.cfg.rqCap) :
    wakeAll (ts ++ t :: us) s =
      .halt (({ s with rq := s.rq ++ ts } : State).raiseFatal .rqFull (t.zeroExtend 32)) := by
  have hfull : (s.rq ++ ts).length = s.cfg.rqCap := List.length_append.trans h
  rw [wakeAll_append, wakeAll_room ts s h.le, Flow.andThen_go, wakeAll, wake_full _ t hfull, Flow.andThen_halt]

/-! ## EX_INIT -/

theorem wf_rqCap_le (c : Config) (h : c.wf = true) : c.rqCap ≤ 255 := by
  simp only [Config.wf, Config.capsOk, Bool.and_eq_true, decide_eq_true_eq] at h
  omega

/-- The identities 0 .. n-1 come first among those of a block with more than n tasks, and n is the next one. -/
theorem taskIds_split (c : Config) (n : Nat) (h : n < c.ntask) :
    ∃ rest, taskIds c = (List.range n).map (BitVec.ofNat 8) ++ BitVec.ofNat 8 n :: rest := by
  obtain ⟨k, hk⟩ := Nat.exists_eq_add_of_lt h
  refine ⟨((List.range k).map (n + Nat.succ ·)).map (BitVec.ofNat 8), ?_⟩
  rw [taskIds, hk, Nat.add_assoc, List.range_add, List.range_succ_eq_map]
  simp

/-- The first two writes of EX_INIT, `RQ <- empty; EXEN <- 1` (R142). -/
def State.executorCleared (s : State) : State := { s with rq := [], exen := true }

theorem exec_exInit_again (s : State) (h : s.hostReady = true) (he : s.exen = true) :
    exec .exInit s = .next (s.fail .errState) := by
  simp [exec, execExInit, h, he]

theorem exec_exInit_first (s : State) (h : s.hostReady = true) (he : s.exen = false) :
    exec .exInit s = .next ((wakeAll (taskIds s.cfg) s.executorCleared).finish (fun t => t.done 0#32 0#32)) := by
  simp [exec, execExInit, h, he, State.executorCleared]

/-- Settles O42: RQ starts empty, so the run of wakes fits exactly when NTASK does not pass RQ_CAP, and otherwise the identity
RQ_CAP is the one that finds RQ full. -/
theorem exInitSeedsEveryTask : Obligations.ExInitSeedsEveryTask := by
  refine ⟨rfl, fun s hs hwf => ⟨exec_exInit_again s hs, fun he hfits => ?_, fun he hover => ?_⟩⟩
  · have hroom : s.executorCleared.rq.length + (taskIds s.cfg).length ≤ s.cfg.rqCap := by
      simpa [State.executorCleared, taskIds] using hfits
    rw [exec_exInit_first s hs he, wakeAll_room _ s.executorCleared hroom]
    rfl
  · obtain ⟨rest, hids⟩ := taskIds_split s.cfg s.cfg.rqCap hover
    have hlast : s.executorCleared.rq.length + ((List.range s.cfg.rqCap).map (BitVec.ofNat 8)).length =
        s.cfg.rqCap := by
      simp [State.executorCleared]
    rw [exec_exInit_first s hs he, hids, wakeAll_overflow _ rest _ s.executorCleared hlast,
      zeroExtend_ofNat_of_lt _ (Nat.lt_succ_of_le (wf_rqCap_le s.cfg hwf))]
    rfl

end Sys2Proof.Machine
end

section
/-! PROOFS. The status read ST_GET (45_status.md R157, R158): its refusals, its answers, and the level and pending words bit by
bit. -/

namespace Sys2Proof.Machine

/-! ## A sequence of bits as a word -/

theorem bitsNat_cons (b : Bool) (bs : List Bool) : bitsNat (b :: bs) = Nat.bit b (bitsNat bs) := by
  rw [bitsNat, Nat.bit_val, Nat.add_comm]

theorem testBit_bitsNat (bs : List Bool) (l : Nat) : (bitsNat bs).testBit l = bs.getD l false := by
  induction bs generalizing l with
  | nil => simp [bitsNat]
  | cons b bs ih =>
    rw [bitsNat_cons]
    cases l with
    | zero => rw [Nat.testBit_bit_zero, List.getD_cons_zero]
    | succ l => rw [Nat.testBit_bit_succ, List.getD_cons_succ, ih l]

/-- The word of a sequence of bits shows the bits it has, and 0 above them. -/
theorem getLsbD_ofNat_bitsNat (bs : List Bool) (l : Nat) (hl : l < 32) :
    (BitVec.ofNat 32 (bitsNat bs)).getLsbD l = bs.getD l false := by
  rw [BitVec.getLsbD_ofNat, testBit_bitsNat, decide_eq_true hl, Bool.true_and]

theorem toBool_eq_decide_high (v : Level) : v.toBool = decide (v = .high) := by
  cases v <;> rfl

theorem pendWord_getLsbD (s : State) (h : s.ShapeOk) (l : Nat) (hl : l < 32) :
    s.pendWord.getLsbD l = (decide (l < s.cfg.nline) && s.pendAt l) := by
  obtain ⟨-, hpend, -, -⟩ := h
  rw [State.pendWord, getLsbD_ofNat_bitsNat _ l hl, State.pendAt, ← hpend]
  by_cases hlt : l < s.pend.length <;> simp [hlt]

theorem pinWord_getLsbD (s : State) (h : s.ShapeOk) (l : Nat) (hl : l < 32) :
    s.pinWord.getLsbD l = (decide (l < s.cfg.nline) && decide (s.pinAt l = .high)) := by
  obtain ⟨hpin, -, -, -⟩ := h
  rw [State.pinWord, getLsbD_ofNat_bitsNat _ l hl, State.pinAt, ← hpin]
  by_cases hlt : l < s.pin.length <;> simp [hlt, toBool_eq_decide_high]

/-- Selector 1 writes its sum of shifted flags out. -/
theorem flagsWord_eq (s : State) : s.flagsWord = BitVec.ofNat 32
    (s.cf.toNat + 2 * s.cie.toNat + 4 * s.wf.toNat + 8 * s.tken.toNat + 16 * s.exen.toNat) := by
  simp only [State.flagsWord, bitsNat]
  congr 1
  omega

/-! ## The refusals -/

theorem subZero_of_ne (sub : Byte) (reply : StReply) (h : sub ≠ 0#8) : subZero sub reply = .error .errRange := if_neg h

theorem stReply_of_le (s : State) (sel sub : Byte) (h : 8 ≤ sel.toNat) : s.stReply sel sub = .error .errRange := by
  unfold State.stReply
  split
  case h_9 => rfl
  all_goals omega

/-- The selectors 0 to 5 have no sub-index. -/
theorem stReply_of_sub_ne (s : State) (sel sub : Byte) (h : sel.toNat < 6) (hsub : sub ≠ 0#8) :
    s.stReply sel sub = .error .errRange := by
  unfold State.stReply
  split
  case h_7 | h_8 => omega
  case h_9 => rfl
  all_goals exact subZero_of_ne sub _ hsub

theorem slotReply_outOfRange (s : State) (sub : Byte) (h : s.cfg.nslot ≤ sub.toNat) :
    s.slotReply sub = .error .errRange := if_neg (mt (slotInRange_iff s.cfg sub).mp h.not_gt)

theorem mboxReply_outOfRange (s : State) (sub : Byte) (h : s.cfg.nmbox ≤ sub.toNat) :
    s.mboxReply sub = .error .errRange := if_neg (mt (mboxInRange_iff s.cfg sub).mp h.not_gt)

/-- What ST_GET refuses with ERR_RANGE: a selector above 7, and a sub-index that the selector does not have (R157). -/
theorem stReply_refused (s : State) (sel sub : Byte)
    (h : 8 ≤ sel.toNat ∨ (sel.toNat < 6 ∧ sub ≠ 0#8) ∨ (sel.toNat = 6 ∧ s.cfg.nslot ≤ sub.toNat) ∨
      (sel.toNat = 7 ∧ s.cfg.nmbox ≤ sub.toNat)) : s.stReply sel sub = .error .errRange := by
  rcases h with hsel | ⟨hsel, hsub⟩ | ⟨hsel, hsub⟩ | ⟨hsel, hsub⟩
  · exact stReply_of_le s sel sub hsel
  · exact stReply_of_sub_ne s sel sub hsel hsub
  · obtain rfl : sel = 6#8 := BitVec.eq_of_toNat_eq hsel
    exact slotReply_outOfRange s sub hsub
  · obtain rfl : sel = 7#8 := BitVec.eq_of_toNat_eq hsel
    exact mboxReply_outOfRange s sub hsub

/-! ## The answers of the selectors that look something up -/

theorem topReply_empty (s : State) (h : s.heap = []) : s.topReply = .error .errState := by
  rw [State.topReply, (heapTop_none s).mpr h]

theorem topReply_of_top (s : State) (e : Entry) (h : s.heapTop = some e) :
    s.topReply = .words e.d (e.id.zeroExtend 32) := by
  rw [State.topReply, h]

theorem ofNat_toBool_toNat (v : Level) : BitVec.ofNat 32 v.toBool.toNat = if v = .high then 1#32 else 0#32 := by
  cases v <;> rfl

theorem slotReply_inRange (s : State) (sub : Byte) (h : sub.toNat < s.cfg.nslot) :
    s.slotReply sub = .words ((s.slotAt sub.toNat).ws.zeroExtend 32)
      (if (s.slotAt sub.toNat).target = .high then 1#32 else 0#32) := by
  rw [State.slotReply, if_pos ((slotInRange_iff s.cfg sub).mpr h), ofNat_toBool_toNat]

theorem mboxReply_inRange (s : State) (sub : Byte) (h : sub.toNat < s.cfg.nmbox) :
    s.mboxReply sub = .words (mailboxWord (s.mboxAt sub.toNat))
      (if (s.mboxAt sub.toNat).mbf = true then (s.mboxAt sub.toNat).mbi else 0#32) :=
  if_pos ((mboxInRange_iff s.cfg sub).mpr h)

/-! ## ST_GET -/

theorem encode_stGet (sel sub : Byte) : encode (.stGet sel sub) =
    some (0x50000000#32 ||| sub.zeroExtend 32 <<< 16 ||| sel.zeroExtend 32 <<< 8) := by
  rw [encode, packWord_eq_or]
  simp

theorem exec_stGet (s : State) (sel sub : Byte) (h : s.hostReady = true) :
    exec (.stGet sel sub) s = .next (s.reply (s.stReply sel sub)) := by
  simp [exec, execStGet, h]

theorem exec_stGet_of_error (s : State) (sel sub : Byte) (code : StatusCode) (h : s.hostReady = true)
    (hr : s.stReply sel sub = .error code) : exec (.stGet sel sub) s = .next (s.fail code) := by
  rw [exec_stGet s sel sub h, hr, State.reply]

theorem exec_stGet_of_words (s : State) (sel sub : Byte) (r0 r1 : Word) (h : s.hostReady = true)
    (hr : s.stReply sel sub = .words r0 r1) : exec (.stGet sel sub) s = .next (s.done r0 r1) := by
  rw [exec_stGet s sel sub h, hr, State.reply]

/-- Settles O49: ST_GET writes its reply into the result registers and nothing else, so each clause is the reply of one
selector; the two words of selector 5 are read bit by bit through the lengths of PIN and PEND. -/
theorem stGetAnswersItsSelectors : Obligations.StGetAnswersItsSelectors := by
  intro s sel sub
  refine ⟨encode_stGet sel sub, fun hs => ⟨fun hrefused => ?_, ?_, ?_, ?_, fun hempty => ?_, fun e htop => ?_, ?_,
    fun _ hshape => ⟨s.pinWord, s.pendWord, ?_, fun l hl => ?_⟩, fun hslot => ?_, fun hmbox => ?_⟩⟩
  · exact exec_stGet_of_error s sel sub _ hs (stReply_refused s sel sub hrefused)
  · exact exec_stGet_of_words s 0#8 0#8 _ _ hs rfl
  · rw [← flagsWord_eq s]
    exact exec_stGet_of_words s 1#8 0#8 _ _ hs rfl
  · exact exec_stGet_of_words s 2#8 0#8 _ _ hs rfl
  · exact exec_stGet_of_error s 3#8 0#8 _ hs (topReply_empty s hempty)
  · exact exec_stGet_of_words s 3#8 0#8 _ _ hs (topReply_of_top s e htop)
  · exact exec_stGet_of_words s 4#8 0#8 _ _ hs rfl
  · exact exec_stGet_of_words s 5#8 0#8 _ _ hs rfl
  · exact ⟨pinWord_getLsbD s hshape l hl, pendWord_getLsbD s hshape l hl⟩
  · exact exec_stGet_of_words s 6#8 sub _ _ hs (slotReply_inRange s sub hslot)
  · exact exec_stGet_of_words s 7#8 sub _ _ hs (mboxReply_inRange s sub hmbox)

end Sys2Proof.Machine
end
section
/-! PROOFS. The reference clients: the period rule of the LED (46_clients.md R166, R167; 90_conflicts.md C2). -/

namespace Sys2Proof.Machine

/-! ## The period rule of the LED -/

/-- The floor: the test is on the period before halving. -/
theorem nextPeriod_of_lt (p : Nat) (h : p < 100) : nextPeriod p = 500 :=
  if_pos h

/-- The halving rounds the new period up, since what it takes away is rounded down. -/
theorem nextPeriod_of_le (p : Nat) (h : 100 ≤ p) : nextPeriod p = p - p / 2 :=
  if_neg (Nat.not_lt.mpr h)

/-- The least new period is 50, the half of the least period that is halved. -/
theorem le_nextPeriod (p : Nat) : 50 ≤ nextPeriod p := by
  rcases Nat.lt_or_ge p 100 with hlow | hhigh
  · rw [nextPeriod_of_lt p hlow]
    decide
  · rw [nextPeriod_of_le p hhigh]
    omega

theorem nextPeriod_le (p : Nat) (h : p ≤ 500) : nextPeriod p ≤ 500 := by
  rcases Nat.lt_or_ge p 100 with hlow | hhigh
  · rw [nextPeriod_of_lt p hlow]
  · rw [nextPeriod_of_le p hhigh]
    omega

/-- Settles O57: the two sides of the floor test, each worked number on its side of it (the period 63 alone is below), and
the range of the periods. The lower bound of the range needs neither bound on the period before. -/
theorem nextPeriodFollowsTheWorkedNumbers : Obligations.NextPeriodFollowsTheWorkedNumbers := by
  refine ⟨nextPeriod_of_lt, nextPeriod_of_le, ?_, ?_, ?_, ?_, fun p _ hhigh => ⟨le_nextPeriod p, nextPeriod_le p hhigh⟩⟩
  · exact nextPeriod_of_le 500 (by decide)
  · exact nextPeriod_of_le 250 (by decide)
  · exact nextPeriod_of_le 125 (by decide)
  · exact nextPeriod_of_lt 63 (by decide)

end Sys2Proof.Machine
end

section
/-! PROOFS. Encoding and decoding invert each other, and the opcode map decides what decodes (30_encoding.md R66 to R76). -/

namespace Sys2Proof

/-! ## From an operation to its word and back -/

/-- What a format asks of a packed word: zero in each field it does not use (R68). -/
theorem Format.accepts_packWord (f : Format) (opc tid idx : Byte) (b : Bool) :
    f.accepts (packWord opc tid idx b) = ((f.usesTid || tid == 0#8) && (f.usesIdx || idx == 0#8) && (f.usesB || !b)) := by
  simp [Format.accepts]

theorem decode_packWord (o : Opcode) (tid idx : Byte) (b : Bool) (i : Instr)
    (h : ((o.format.usesTid || tid == 0#8) && (o.format.usesIdx || idx == 0#8) && (o.format.usesB || !b)) = true)
    (hi : o.instr (packWord o.code tid idx b) = i) : decode (packWord o.code tid idx b) = .ok i := by
  refine (decode_eq_ok _ _).mpr ⟨o, ?_, ?_, hi⟩
  · rw [fieldOpc_packWord, Opcode.ofCode_code]
  · rw [Format.accepts_packWord, h]

/-- The word of an operation is its row's OPC and its own operands, with zero in the fields that the row leaves out. -/
theorem decode_of_encode (i : Instr) (w : Word) (h : encode i = some w) : decode w = .ok i := by
  cases i with
  | svcCmp | svcWrap | svcEdge _ | tick | pin _ _ => cases h
  | tkInit => cases h; exact decode_packWord .tkInit 0#8 0#8 false _ rfl rfl
  | tkNow => cases h; exact decode_packWord .tkNow 0#8 0#8 false _ rfl rfl
  | tkStart => cases h; exact decode_packWord .tkStart 0#8 0#8 false _ rfl rfl
  | tkPoll tid ph => cases h; exact decode_packWord .tkPoll tid 0#8 ph.toBool _ rfl (by simp [Opcode.instr])
  | ewSet slot lvl => cases h; exact decode_packWord .ewSet 0#8 slot lvl.toBool _ rfl (by simp [Opcode.instr])
  | ewPoll tid slot => cases h; exact decode_packWord .ewPoll tid slot false _ rfl (by simp [Opcode.instr])
  | exInit => cases h; exact decode_packWord .exInit 0#8 0#8 false _ rfl rfl
  | wake tid => cases h; exact decode_packWord .wake tid 0#8 false _ rfl (by simp [Opcode.instr])
  | wakeWk => cases h; exact decode_packWord .wakeWk 0#8 0#8 false _ rfl rfl
  | wkGet tid => cases h; exact decode_packWord .wkGet tid 0#8 false _ rfl (by simp [Opcode.instr])
  | exNext => cases h; exact decode_packWord .exNext 0#8 0#8 false _ rfl rfl
  | exSleep => cases h; exact decode_packWord .exSleep 0#8 0#8 false _ rfl rfl
  | mbSend mbox => cases h; exact decode_packWord .mbSend 0#8 mbox false _ rfl (by simp [Opcode.instr])
  | mbRecv tid mbox ph => cases h; exact decode_packWord .mbRecv tid mbox ph.toBool _ rfl (by simp [Opcode.instr])
  | stGet sel sub => cases h; exact decode_packWord .stGet sub sel false _ rfl (by simp [Opcode.instr])

/-- Every host operation has a command word: the converse of R81. -/
theorem encode_isSome_of_isHostOp (i : Instr) (h : i.isHostOp = true) : ∃ w, encode i = some w := by
  cases i with
  | svcCmp | svcWrap | svcEdge _ | tick | pin _ _ => cases h
  | _ => exact ⟨_, rfl⟩

/-- Settles O5: the word of an operation packs its row's OPC with its operands, and each field is read back from it. -/
theorem decodeInvertsEncode : Obligations.DecodeInvertsEncode :=
  fun i _ => ⟨decode_of_encode i, encode_isSome_of_isHostOp i⟩

/-! ## From a word to its operation and back -/

/-- An accepted word is the word of its operation: the fields that the operation does not carry are zero (R68, R74). -/
theorem encode_instr (o : Opcode) (w : Word) (h : o.format.accepts w = true) :
    encode (o.instr w) = some (packWord o.code (fieldTid w) (fieldIdx w) (fieldB w)) := by
  simp only [Format.accepts, Bool.and_eq_true, Bool.or_eq_true, beq_iff_eq, Bool.not_eq_true'] at h
  obtain ⟨⟨⟨htid, hidx⟩, hb⟩, -⟩ := h
  cases o <;> simp_all [encode, Opcode.instr, Opcode.code, Opcode.format, Format.usesTid, Format.usesIdx, Format.usesB]

theorem Format.fieldRsv_of_accepts (f : Format) (w : Word) (h : f.accepts w = true) : fieldRsv w = 0#7 := by
  simp only [Format.accepts, Bool.and_eq_true, beq_iff_eq] at h
  exact h.2

/-- Settles O6: the operation a word decodes to packs the word's own fields, and a word with RSV zero is its fields packed. -/
theorem encodeInvertsDecode : Obligations.EncodeInvertsDecode := by
  intro w i h
  obtain ⟨o, hcode, haccepts, rfl⟩ := (decode_eq_ok w i).mp h
  rw [encode_instr o w haccepts, Opcode.code_of_ofCode _ o hcode, packWord_fields w (o.format.fieldRsv_of_accepts w haccepts)]

/-! ## The opcode map -/

theorem decode_of_unknown (w : Word) (h : ∀ o : Opcode, o.code ≠ fieldOpc w) : decode w = .error .unknownOpcode := by
  cases hrow : Opcode.ofCode (fieldOpc w) with
  | none => simp [decode, hrow]
  | some o => exact absurd (Opcode.code_of_ofCode _ o hrow) (h o)

/-- A word whose OPC is in a row is decided by that row's mask and match (R73, R74). -/
theorem decode_of_code (w : Word) (o : Opcode) (h : o.code = fieldOpc w) :
    decode w = if w &&& o.mask = o.matchWord then .ok (o.instr w) else .error .nonzeroField := by
  have hrow : Opcode.ofCode (fieldOpc w) = some o := (Opcode.ofCode_eq_some_iff _ o).mpr h
  simp [decode, hrow, o.mask_eq_matchWord_iff w, h]

/-- A word fits the mask and match of one row at most, because it has one OPC (R72). -/
theorem Opcode.eq_of_mask_eq_matchWord (w : Word) (o o' : Opcode) (h : w &&& o.mask = o.matchWord)
    (h' : w &&& o'.mask = o'.matchWord) : o = o' := by
  have hcode := ((o.mask_eq_matchWord_iff w).mp h).1
  have hcode' := ((o'.mask_eq_matchWord_iff w).mp h').1
  rw [← Option.some_inj, ← o.ofCode_code, ← o'.ofCode_code, hcode, hcode']

/-- Settles O7: OPC either is in no row, and the word is refused as reserved, or names the one row whose mask and match
decide. -/
theorem maskAndMatchDecideTheDecoding : Obligations.MaskAndMatchDecideTheDecoding := by
  refine fun w => ⟨⟨fun h o hcode => ?_, decode_of_unknown w⟩, fun o hcode => ?_, Opcode.eq_of_mask_eq_matchWord w⟩
  · rw [decode_of_code w o hcode] at h
    split at h <;> cases h
  · rw [decode_of_code w o hcode]
    split <;> simp_all

/-- Settles O4: each word is evaluated by the decoder. -/
theorem wordsOfTheTableDecode : Obligations.WordsOfTheTableDecode := by
  unfold Obligations.WordsOfTheTableDecode
  decide

end Sys2Proof
end

section
/-! PROOFS. The port, one step of the machine, and which offers are taken (20_memory.md R50 to R57, 30_encoding.md R79,
60_exceptions.md R182, R186). -/

namespace Sys2Proof.Machine

/-! ## Every instruction ends in a next state -/

theorem State.when_of_eq_false {s t : State} {b : Bool} (h : b = false) : s.when b t = .next s := by
  subst h
  rfl

/-- Every instruction is a step taken where it is enabled, so it ends in a next state. -/
theorem exec_total (i : Instr) (s : State) : ∃ t, exec i s = .next t := by
  cases i <;> exact ⟨_, State.when_eq _ _ _⟩

/-- Settles O14: enabled or not, an offered instruction ends in a next state. -/
theorem everyInstructionEndsInANextState : Obligations.EveryInstructionEndsInANextState :=
  exec_total

/-! ## Offers that are not taken -/

theorem exec_of_not_hostReady (i : Instr) (s : State) (hi : i.isHostOp = true) (h : s.hostReady = false) :
    exec i s = .next s := by
  cases i with
  | svcCmp | svcWrap | svcEdge _ | tick | pin _ _ => cases hi
  | _ => exact State.when_of_eq_false h

theorem State.svcCmpReady_iff (s : State) :
    s.svcCmpReady = true ↔ s.fcause = 0#32 ∧ s.tken = true ∧ s.cf = true ∧ s.cie = true := by
  simp [State.svcCmpReady, State.fatal, and_assoc]

theorem State.svcWrapReady_iff (s : State) :
    s.svcWrapReady = true ↔ s.fcause = 0#32 ∧ s.tken = true ∧ s.wf = true := by
  simp [State.svcWrapReady, State.fatal, and_assoc]

/-- Settles O17: each enabling condition of a service or environment step is the Boolean that guards it. -/
theorem stepsNotEnabledChangeNothing : Obligations.StepsNotEnabledChangeNothing := by
  intro s l v
  refine ⟨fun h => ?_, fun h => ?_, fun h => ?_, fun h => ?_, fun h => ?_⟩
  · exact State.when_of_eq_false (Bool.eq_false_iff.mpr (mt s.tickReady_iff.mp h))
  · exact State.when_of_eq_false (Bool.eq_false_iff.mpr (mt s.svcCmpReady_iff.mp h))
  · exact State.when_of_eq_false (Bool.eq_false_iff.mpr (mt s.svcWrapReady_iff.mp h))
  · exact State.when_of_eq_false (Bool.eq_false_iff.mpr (mt (s.svcEdgeReady_iff l).mp h))
  · exact State.when_of_eq_false (Bool.eq_false_iff.mpr (mt (s.pinReady_iff l v).mp h))

theorem State.fatal_iff (s : State) : s.fatal = true ↔ s.fcause ≠ 0#32 := by
  simp [State.fatal]

theorem State.fatal_eq_false_iff (s : State) : s.fatal = false ↔ s.fcause = 0#32 := by
  simp [State.fatal]

/-- After the halt no instruction is a step (R186). -/
theorem exec_of_fatal (i : Instr) (s : State) (h : s.fatal = true) : exec i s = .next s := by
  cases i with
  | svcCmp => exact State.when_of_eq_false (by simp [State.svcCmpReady, h])
  | svcWrap => exact State.when_of_eq_false (by simp [State.svcWrapReady, h])
  | svcEdge l => exact State.when_of_eq_false (by simp [State.svcEdgeReady, h])
  | tick => exact State.when_of_eq_false (by simp [State.tickReady, h])
  | pin l v => exact State.when_of_eq_false (by simp [State.pinReady, h])
  | _ => exact exec_of_not_hostReady _ s rfl (by simp [State.hostReady, h])

theorem exec_eq_of_fatal {i : Instr} {s t : State} (h : s.fatal = true) (he : exec i s = .next t) : t = s := by
  rw [exec_of_fatal i s h] at he
  cases he
  rfl

theorem hostWrite_of_asleep (s : State) (off : Nat) (width : AccessWidth) (v : Word) (h : s.hostAsleep = true) :
    hostWrite off width v s = .next s := if_pos h

theorem hostRead_of_asleep (s : State) (off : Nat) (width : AccessWidth) (h : s.hostAsleep = true) :
    hostRead off width s = .next s := if_pos h

/-- Settles O16: a sleeping HOST is not ready for an operation, and outside the halt it makes no access. -/
theorem sleepingHostHasNoStep : Obligations.SleepingHostHasNoStep := by
  intro s i off width v hsleep
  refine ⟨fun hi => exec_of_not_hostReady i s hi (by simp [State.hostReady, hsleep]), fun hfatal => ?_⟩
  have hasleep : s.hostAsleep = true := by simp [State.hostAsleep, hsleep, hfatal]
  exact ⟨hostWrite_of_asleep s off width v hasleep, hostRead_of_asleep s off width hasleep⟩

/-! ## The port registers -/

theorem hostRead_word (s : State) (off : Nat) (r : PortReg) (hs : s.hostAsleep = false)
    (hr : portAccess off .word = .ok r) : hostRead off .word s = .next { s with rdata := s.portReg r } := by
  simp [hostRead, hs, hr]

/-- Settles O11: each offset of the register map names its register, reads return it, and of the writes ARG's alone stores. -/
theorem portReadsAndPlainWrites : Obligations.PortReadsAndPlainWrites := by
  refine fun s v => ⟨fun hawake => ?_, fun hs => ⟨?_, ?_⟩⟩
  · have hs : s.hostAsleep = false := s.hostAsleep_eq_false_iff.mpr hawake
    exact ⟨hostRead_word s 0x00 .cmd hs rfl, hostRead_word s 0x04 .arg hs rfl, hostRead_word s 0x08 .res0 hs rfl,
      hostRead_word s 0x0C .res1 hs rfl, hostRead_word s 0x10 .status hs rfl, hostRead_word s 0x14 .fcause hs rfl,
      hostRead_word s 0x18 .finfo hs rfl⟩
  · exact hostWrite_word_of_hostReady s 0x04 .arg v hs rfl
  · simp only [List.forall_mem_cons, List.not_mem_nil, false_implies, implies_true, and_true]
    exact ⟨hostWrite_word_of_hostReady s 0x08 .res0 v hs rfl, hostWrite_word_of_hostReady s 0x0C .res1 v hs rfl,
      hostWrite_word_of_hostReady s 0x10 .status v hs rfl, hostWrite_word_of_hostReady s 0x14 .fcause v hs rfl,
      hostWrite_word_of_hostReady s 0x18 .finfo v hs rfl⟩

theorem State.issue_of_decode_ok (s : State) (w : Word) (i : Instr) (h : decode w = .ok i) :
    s.issue w = exec i { s with cmd := w } := by
  simp [State.issue, h]

theorem hostWrite_arg (s : State) (a : Word) (h : s.hostReady = true) :
    hostWrite 0x04 .word a s = .next { s with arg := a } := hostWrite_word_of_hostReady s 0x04 .arg a h rfl

theorem hostWrite_cmd (s : State) (w : Word) (i : Instr) (h : s.hostReady = true) (hw : decode w = .ok i) :
    hostWrite 0x00 .word w s = exec i { s with cmd := w } :=
  (hostWrite_word_of_hostReady s 0x00 .cmd w h rfl).trans (s.issue_of_decode_ok w i hw)

/-- Settles O8: the write of CMD is performed by a ready HOST, and the word it stores is the one it decodes. -/
theorem stepRunsTheDecodedOperation : Obligations.StepRunsTheDecodedOperation := by
  intro s w i rest hag hs hw
  rw [step_cmdWrite s w rest hag hs, State.issue_of_decode_ok _ w i hw]

/-- Settles O9: the head of the agenda is performed on the state without it. -/
theorem stepRunsTheAgentAtTheHead : Obligations.StepRunsTheAgentAtTheHead := by
  intro s rest l v
  refine ⟨step_of_agenda_cons s _ rest, step_of_agenda_cons s _ rest, step_of_agenda_cons s _ rest,
    step_of_agenda_cons s _ rest, step_of_agenda_cons s _ rest, fun hnil => ?_⟩
  simp [step, nextEvent, hnil]

/-- Settles O13: the first write stores the operand and leaves HOST ready, the second runs the operation. -/
theorem argThenCmdPerformsTheOperation : Obligations.ArgThenCmdPerformsTheOperation := by
  intro s w a i t hs hw hexec
  have hcmd := (hostWrite_cmd { s with arg := a } w i hs hw).trans hexec
  simp [performAll, perform, hostWrite_arg s a hs, hcmd]

/-! ## What one step can do -/

theorem isHostOp_of_decode (w : Word) (i : Instr) (h : decode w = .ok i) : i.isHostOp = true := by
  obtain ⟨o, -, -, rfl⟩ := (decode_eq_ok w i).mp h
  cases o <;> rfl

/-- What a step from s that ends in t can be: a read, a write that stores or is ignored, or no event; a word that is no
operation; reset; or one instruction, run after the event has left the agenda and CMD has taken the word. -/
inductive StepEnd (s t : State) : Prop
  | port (h : t = { s with arg := t.arg, rdata := t.rdata, agenda := t.agenda })
  | illegal (w : Word) (rest : List Event) (h : t = ({ s with cmd := w, agenda := rest } : State).fail .errIllegal)
  | reset (rest : List Event) (h : t = ({ s with agenda := rest } : State).resetInput)
  | instr (i : Instr) (w : Word) (rest : List Event) (hi : i = .tick → s.agenda.head? = some .tick)
      (h : exec i { s with cmd := w, agenda := rest } = .next t)

theorem hostWrite_cases (s t : State) (off : Nat) (width : AccessWidth) (v : Word)
    (h : hostWrite off width v s = .next t) : t = { s with arg := t.arg } ∨ s.issue v = .next t := by
  unfold hostWrite at h
  split at h
  · cases h
    exact .inl rfl
  · split at h
    · cases h
    · rename_i r _
      split at h
      · cases h
        exact .inl rfl
      · cases r with
        | cmd => exact .inr h
        | _ => cases h; exact .inl rfl

theorem hostRead_cases (s t : State) (off : Nat) (width : AccessWidth) (h : hostRead off width s = .next t) :
    (s.hostAsleep = true ∧ t = s) ∨ ∃ r, portAccess off width = .ok r ∧ t = { s with rdata := s.portReg r } := by
  unfold hostRead at h
  split at h
  · cases h
    exact .inl ⟨‹_›, rfl⟩
  · split at h
    · cases h
    · cases h
      exact .inr ⟨_, ‹_›, rfl⟩

theorem step_cases (s t : State) (h : step s = .next t) : StepEnd s t := by
  cases hag : s.agenda with
  | nil =>
    have hidle : step s = .next s := by simp [step, nextEvent, hag]
    cases hidle.symm.trans h
    exact .port rfl
  | cons e rest =>
    rw [step_of_agenda_cons s e rest hag] at h
    cases e with
    | write off width v =>
      rcases hostWrite_cases _ t off width v h with heq | hissue
      · exact .port (by rw [heq])
      · cases hw : decode v with
        | ok i =>
          rw [State.issue_of_decode_ok _ v i hw] at hissue
          refine .instr i v rest (fun hi => ?_) hissue
          rw [hi] at hw
          exact absurd (isHostOp_of_decode v _ hw) (by decide)
        | error e =>
          rw [State.issue_of_decode_error _ v e hw] at hissue
          cases hissue
          exact .illegal v rest rfl
    | read off width =>
      rcases hostRead_cases _ t off width h with ⟨-, rfl⟩ | ⟨r, -, rfl⟩
      · exact .port rfl
      · exact .port rfl
    | tick => exact .instr .tick s.cmd rest (fun _ => by rw [hag]; rfl) h
    | pin l v => exact .instr (.pin l v) s.cmd rest nofun h
    | svcCmp => exact .instr .svcCmp s.cmd rest nofun h
    | svcWrap => exact .instr .svcWrap s.cmd rest nofun h
    | svcEdge l => exact .instr (.svcEdge l) s.cmd rest nofun h
    | reset =>
      cases h
      exact .reset rest rfl

/-! ## The halted block -/

/-- After the halt an event other than a read and reset changes nothing: a write is ignored, an instruction is no step. -/
theorem perform_of_fatal (s t : State) (e : Event) (hf : s.fatal = true) (hreset : e ≠ .reset)
    (hread : ∀ off width, e ≠ .read off width) (h : perform e s = .next t) : t = s := by
  cases e with
  | reset => exact absurd rfl hreset
  | read off width => exact absurd rfl (hread off width)
  | write off width v =>
    have hawake : s.hostAsleep = false := s.hostAsleep_eq_false_iff.mpr (.inr hf)
    simp only [perform, hostWrite, hawake, hf, Bool.false_eq_true, if_false, if_true] at h
    split at h <;> cases h
    rfl
  | tick => exact exec_eq_of_fatal (i := .tick) hf h
  | pin l v => exact exec_eq_of_fatal (i := .pin l v) hf h
  | svcCmp => exact exec_eq_of_fatal (i := .svcCmp) hf h
  | svcWrap => exact exec_eq_of_fatal (i := .svcWrap) hf h
  | svcEdge l => exact exec_eq_of_fatal (i := .svcEdge l) hf h

/-- Settles O15: an empty agenda, a read, or any other event, reset apart. -/
theorem haltedBlockIsAFixedPoint : Obligations.HaltedBlockIsAFixedPoint := by
  intro s t hf hreset h
  cases hag : s.agenda with
  | nil =>
    have hidle : step s = .next s := by simp [step, nextEvent, hag]
    cases hidle.symm.trans h
    refine ⟨?_, by simp, fun _ => rfl⟩
    rw [List.tail_nil, ← hag]
  | cons e rest =>
    rw [step_of_agenda_cons s e rest hag] at h
    rw [hag] at hreset
    by_cases hread : ∃ off width, e = .read off width
    · obtain ⟨off, width, rfl⟩ := hread
      have hawake : ({ s with agenda := rest } : State).hostAsleep = false :=
        State.hostAsleep_eq_false_iff _ |>.mpr (.inr hf)
      rcases hostRead_cases _ t off width h with ⟨hasleep, -⟩ | ⟨r, hr, rfl⟩
      · rw [hawake] at hasleep
        cases hasleep
      · refine ⟨rfl, fun off' r' hoff' hr' => ?_, fun hne => absurd rfl (hne off width)⟩
        cases hoff'
        cases hr.symm.trans hr'
        rfl
    · obtain rfl := perform_of_fatal { s with agenda := rest } t e hf (fun he => hreset (he ▸ rfl))
        (fun off width he => hread ⟨off, width, he⟩) h
      exact ⟨rfl, fun off r hoff => absurd ⟨off, .word, Option.some_inj.mp hoff⟩ hread, fun _ => rfl⟩

end Sys2Proof.Machine
end

section
/-! PROOFS. Who writes what: a table of the fields that each instruction may write, held to `exec` once, and the writers of the
timer, edge, mailbox and port state read off it (10_state.md R17 to R43). -/

namespace Sys2Proof.Machine

/-! ## How the lines after a wake or `heap_service()` can end, for every ending k -/

theorem wake_finish_cases (s : State) (t : Byte) (k : State → State) :
    (s.rq.length ≠ s.cfg.rqCap ∧ (s.wake t).finish k = k (s.rqAppend t)) ∨
      (s.rq.length = s.cfg.rqCap ∧ (s.wake t).finish k = s.raiseFatal .rqFull (t.zeroExtend 32)) := by
  by_cases hfull : s.rq.length = s.cfg.rqCap
  · exact .inr ⟨hfull, by rw [wake_full s t hfull, Flow.finish_halt]⟩
  · exact .inl ⟨hfull, by rw [wake_room s t hfull, Flow.finish_go]⟩

theorem rqAppend_length_le (s : State) (t : Byte) (hroom : s.rq.length ≠ s.cfg.rqCap) (hle : s.rq.length ≤ s.cfg.rqCap) :
    (s.rqAppend t).rq.length ≤ s.cfg.rqCap := by
  rw [State.rqAppend_rq, List.length_append, List.length_singleton]
  exact Nat.lt_of_le_of_ne hle hroom

/-- `if t != NO_TASK: wake(t)` and k after it: RQ is all that changes before k, and it stays within its capacity. -/
theorem wakeWaiter_finish_cases (s : State) (t : Byte) (k : State → State) :
    ∃ q, (s.rq.length ≤ s.cfg.rqCap → q.length ≤ s.cfg.rqCap) ∧
      ((s.wakeWaiter t).finish k = k { s with rq := q } ∨
        ∃ info, (s.wakeWaiter t).finish k = ({ s with rq := q } : State).raiseFatal .rqFull info) := by
  by_cases hnone : t = noTask
  · exact ⟨s.rq, id, .inl (by rw [wakeWaiter_of_eq s t hnone, Flow.finish_go])⟩
  · rw [wakeWaiter_of_ne s t hnone]
    rcases wake_finish_cases s t k with ⟨hroom, hgo⟩ | ⟨hfull, hhalt⟩
    · exact ⟨s.rq ++ [t], rqAppend_length_le s t hroom, .inl hgo⟩
    · exact ⟨s.rq, id, .inr ⟨_, hhalt⟩⟩

theorem wakeAll_finish_cases (ts : List Byte) (s : State) (k : State → State) :
    ∃ q, (s.rq.length ≤ s.cfg.rqCap → q.length ≤ s.cfg.rqCap) ∧
      ((wakeAll ts s).finish k = k { s with rq := q } ∨
        ∃ info, (wakeAll ts s).finish k = ({ s with rq := q } : State).raiseFatal .rqFull info) := by
  induction ts generalizing s with
  | nil => exact ⟨s.rq, id, .inl rfl⟩
  | cons t ts ih =>
    by_cases hfull : s.rq.length = s.cfg.rqCap
    · exact ⟨s.rq, id, .inr ⟨_, by rw [wakeAll, wake_full s t hfull]; rfl⟩⟩
    · obtain ⟨q, hq, hend⟩ := ih (s.rqAppend t)
      exact ⟨q, fun hle => hq (rqAppend_length_le s t hfull hle), by rw [wakeAll, wake_room s t hfull]; exact hend⟩

theorem heapService_rq_le (s t : State) (h : s.heapService = .go t) (hr : s.rq.length ≤ s.cfg.rqCap) :
    t.rq.length ≤ s.cfg.rqCap := by
  cases hd : drain s.heap.length s with
  | halt u =>
    rw [State.heapService, hd] at h
    cases h
  | go u =>
    rw [State.heapService, hd, Flow.andThen_go] at h
    cases h
    obtain ⟨_, _, _, _, harm, -⟩ := insertHeartbeat_arm u
    rw [harm]
    exact drain_rq_le _ s u hd hr

/-- `heap_service()` and k after it: the run writes H, its arrangement, RQ, CMP and CIE, or halts having written H, its
arrangement and RQ (R103, R187). -/
theorem heapService_finish_cases (s : State) (k : State → State) :
    ∃ h n q, (s.rq.length ≤ s.cfg.rqCap → q.length ≤ s.cfg.rqCap) ∧
      ((∃ m b, (s.heapService).finish k = k { s with heap := h, arrangement := n, rq := q, cmp := m, cie := b }) ∨
        ∃ info, (s.heapService).finish k =
          ({ s with heap := h, arrangement := n, rq := q } : State).raiseFatal .rqFull info) := by
  rcases heapService_cases s with ⟨popped, h', hgo, -⟩ | ⟨popped, e, h', hhalt, -, -, hfull⟩
  · obtain ⟨h, n, m, b, harm, -⟩ := insertHeartbeat_arm (s.served popped h')
    refine ⟨h, n, (s.served popped h').rq, fun hle => ?_, .inl ⟨m, b, by rw [hgo, Flow.finish_go, harm]; rfl⟩⟩
    have := heapService_rq_le s _ hgo hle
    rwa [harm] at this
  · exact ⟨h', _, _, fun _ => hfull.le, .inr ⟨_, by rw [hhalt]; rfl⟩⟩

theorem State.when_cases {s u t : State} {b : Bool} (h : s.when b u = .next t) :
    (b = false ∧ t = s) ∨ (b = true ∧ t = u) := by
  cases b with
  | false => cases h; exact .inl ⟨rfl, rfl⟩
  | true => cases h; exact .inr ⟨rfl, rfl⟩

/-- The ending of the three services, `SLEEP <- 0` (R110, R111, R127). -/
def State.awake (s : State) : State := { s with sleep := false }

/-- What SVC_EDGE(l) can do: it is not taken; it clears PEND[l] of an unconfigured line; or it clears PEND[l] and the slot and
wakes the waiter (R127, R128). -/
theorem exec_svcEdge_cases {s t : State} {l : Nat} (h : exec (.svcEdge l) s = .next t) :
    t = s ∨ (s.svcEdgeReady l = true ∧ slotOfLine s.cfg l = none ∧ t = (s.clearPend l).awake) ∨
      (s.svcEdgeReady l = true ∧ ∃ i, slotOfLine s.cfg l = some i ∧
        t = (((s.clearPend l).setWs i noTask).wakeWaiter (s.slotAt i).ws).finish State.awake) := by
  rcases State.when_cases h with ⟨-, rfl⟩ | ⟨hs, rfl⟩
  · exact .inl rfl
  · unfold State.edgeTake
    split
    · exact .inr (.inl ⟨hs, ‹_›, rfl⟩)
    · exact .inr (.inr ⟨hs, _, ‹_›, rfl⟩)

/-! ## The table of writers -/

/-- u with the five registers by which a host operation ends taken from t (R71, R186). -/
def State.withEnd (u t : State) : State :=
  { u with res0 := t.res0, res1 := t.res1, status := t.status, fcause := t.fcause, finfo := t.finfo }

/-- s with the fields that `heap_service()` may write taken from t (R101 to R103). -/
def State.withHeapOf (s t : State) : State :=
  { s with heap := t.heap, arrangement := t.arrangement, rq := t.rq, cmp := t.cmp, cie := t.cie }

/-- s with the fields that an instruction may write taken from t, and no other. -/
def State.written (s : State) (i : Instr) (t : State) : State :=
  match i with
  | .tkNow | .tkStart | .tkPoll _ .wait | .wkGet _ | .stGet _ _ => s.withEnd t
  | .ewSet _ _ | .ewPoll _ _ => ({ s with slots := t.slots } : State).withEnd t
  | .exInit => ({ s with rq := t.rq, exen := t.exen } : State).withEnd t
  | .wake _ | .wakeWk | .exNext => ({ s with rq := t.rq } : State).withEnd t
  | .exSleep => ({ s with sleep := t.sleep } : State).withEnd t
  | .mbSend _ => ({ s with mboxes := t.mboxes, rq := t.rq } : State).withEnd t
  | .mbRecv _ _ _ => ({ s with mboxes := t.mboxes } : State).withEnd t
  | .tkPoll _ .init => (s.withHeapOf t).withEnd t
  | .tkInit => ({ s.withHeapOf t with cf := t.cf, wf := t.wf, tken := t.tken } : State).withEnd t
  | .svcCmp => { s.withHeapOf t with cf := t.cf, sleep := t.sleep, fcause := t.fcause, finfo := t.finfo }
  | .svcWrap => { s.withHeapOf t with wf := t.wf, sleep := t.sleep, fcause := t.fcause, finfo := t.finfo }
  | .svcEdge _ =>
    { s with pend := t.pend, slots := t.slots, rq := t.rq, sleep := t.sleep, fcause := t.fcause, finfo := t.finfo }
  | .tick => { s with cnt := t.cnt, cf := t.cf, wf := t.wf }
  | .pin _ _ => { s with pin := t.pin, pend := t.pend }

/-- How an instruction run on s can end in t: it is not taken; or it completes, having written what its row of the table says,
and neither FCAUSE nor FINFO; or it halts, likewise, and writes no result register (R79, R186, R187). Either way RQ stays within
its capacity (R23). -/
inductive Ends (i : Instr) (s t : State) : Prop
  | idle (h : t = s)
  | completed (hw : t = s.written i t) (hcause : t.fcause = s.fcause) (hinfo : t.finfo = s.finfo)
      (hstatus : t.status = s.status ∨ ∃ code, t.status = statusWord code)
      (hrq : s.rq.length ≤ s.cfg.rqCap → t.rq.length ≤ s.cfg.rqCap)
  | halted (hw : t = s.written i t) (h0 : t.res0 = s.res0) (h1 : t.res1 = s.res1) (hstatus : t.status = s.status)
      (hcause : ∃ cause, t.fcause = causeWord cause)
      (hrq : s.rq.length ≤ s.cfg.rqCap → t.rq.length ≤ s.cfg.rqCap)

theorem Ends.of_when {i : Instr} {s u t : State} {b : Bool} (h : s.when b u = .next t) (hu : Ends i s u) :
    Ends i s t := by
  rw [State.when_eq] at h
  cases h
  split
  · exact hu
  · exact .idle rfl

/-- A completed operation that answers OK, or a refusal. -/
theorem Ends.done {i : Instr} {s u : State} {r0 r1 : Word} (hw : u.done r0 r1 = s.written i (u.done r0 r1))
    (hrq : s.rq.length ≤ s.cfg.rqCap → u.rq.length ≤ s.cfg.rqCap := by exact id)
    (hcause : u.fcause = s.fcause := by rfl) (hinfo : u.finfo = s.finfo := by rfl) : Ends i s (u.done r0 r1) :=
  .completed hw hcause hinfo (.inr ⟨.ok, rfl⟩) hrq

theorem Ends.fail {i : Instr} {s : State} {code : StatusCode} (hw : s.fail code = s.written i (s.fail code)) :
    Ends i s (s.fail code) :=
  .completed hw rfl rfl (.inr ⟨code, rfl⟩) id

theorem Ends.raise {i : Instr} {s u : State} {cause : FatalCause} {info : Word}
    (hw : u.raiseFatal cause info = s.written i (u.raiseFatal cause info))
    (hrq : s.rq.length ≤ s.cfg.rqCap → u.rq.length ≤ s.cfg.rqCap := by exact id) (h0 : u.res0 = s.res0 := by rfl)
    (h1 : u.res1 = s.res1 := by rfl) (hstatus : u.status = s.status := by rfl) : Ends i s (u.raiseFatal cause info) :=
  .halted hw h0 h1 hstatus ⟨cause, rfl⟩ hrq

theorem exec_ends (i : Instr) (s t : State) (h : exec i s = .next t) : Ends i s t := by
  cases i with
  | tkInit =>
    refine Ends.of_when h ?_
    split
    · exact .fail rfl
    · obtain ⟨hp, n, q, hrq, ⟨m, b, hgo⟩ | ⟨info, hhalt⟩⟩ :=
        heapService_finish_cases s.tickerCleared (fun t => t.done 0#32 0#32)
      · rw [hgo]
        exact .done rfl hrq
      · rw [hhalt]
        exact .raise rfl hrq
  | tkNow => exact Ends.of_when h (.done rfl)
  | tkStart =>
    refine Ends.of_when h ?_
    split
    · exact .done rfl
    · exact .fail rfl
  | tkPoll tid ph =>
    refine Ends.of_when h ?_
    cases ph with
    | wait =>
      split
      · exact .fail rfl
      · split
        · exact .fail rfl
        · exact .done rfl
    | init =>
      split
      · exact .fail rfl
      · split
        · exact .fail rfl
        · unfold tkPollBody
          dsimp only
          split
          · exact .raise rfl
          · obtain ⟨hp, n, q, hrq, ⟨m, b, hgo⟩ | ⟨info, hhalt⟩⟩ :=
              heapService_finish_cases (s.heapPush (Entry.mk (instantOf s.cfg s.arg) tid))
                (fun t => t.done (pollWord false true) 0#32)
            · rw [hgo]
              exact .done rfl hrq
            · rw [hhalt]
              exact .raise rfl hrq
  | ewSet slot lvl =>
    refine Ends.of_when h ?_
    split
    · exact .done rfl
    · exact .fail rfl
  | ewPoll tid slot =>
    refine Ends.of_when h ?_
    split
    · exact .fail rfl
    · split
      · exact .done rfl
      · exact .done rfl
  | exInit =>
    refine Ends.of_when h ?_
    split
    · exact .fail rfl
    · obtain ⟨q, hrq, hgo | ⟨info, hhalt⟩⟩ :=
        wakeAll_finish_cases (taskIds s.cfg) s.executorCleared (fun t => t.done 0#32 0#32)
      · exact hgo ▸ .done rfl fun _ => hrq (Nat.zero_le _)
      · exact hhalt ▸ .raise rfl fun _ => hrq (Nat.zero_le _)
  | wake tid =>
    refine Ends.of_when h ?_
    rcases wake_finish_cases s tid (fun t => t.done 0#32 0#32) with ⟨hroom, hgo⟩ | ⟨-, hhalt⟩
    · exact hgo ▸ .done rfl (rqAppend_length_le s tid hroom)
    · exact hhalt ▸ .raise rfl
  | wakeWk =>
    refine Ends.of_when h ?_
    split
    · rcases wake_finish_cases s (wakerTid s.arg) (fun t => t.done 0#32 0#32) with ⟨hroom, hgo⟩ | ⟨-, hhalt⟩
      · exact hgo ▸ .done rfl (rqAppend_length_le s _ hroom)
      · exact hhalt ▸ .raise rfl
    · exact .raise rfl
  | wkGet tid =>
    refine Ends.of_when h ?_
    split
    · exact .done rfl
    · exact .fail rfl
  | exNext =>
    refine Ends.of_when h ?_
    split
    · exact .done rfl
    · rename_i hrq
      refine .done rfl fun hle => ?_
      rw [hrq] at hle
      exact Nat.le_of_succ_le hle
  | exSleep => exact Ends.of_when h (.done rfl)
  | mbSend mbox =>
    refine Ends.of_when h ?_
    split
    · obtain ⟨q, hrq, hgo | ⟨info, hhalt⟩⟩ := wakeWaiter_finish_cases (s.storeItem mbox.toNat s.arg)
        ((s.storeItem mbox.toNat s.arg).mboxAt mbox.toNat).mbw (fun t => t.done 0#32 0#32)
      · exact hgo ▸ .done rfl hrq
      · exact hhalt ▸ .raise rfl hrq
    · exact .fail rfl
  | mbRecv tid mbox ph =>
    refine Ends.of_when h ?_
    split
    · exact .fail rfl
    · cases ph with
      | init => exact .done rfl
      | wait =>
        unfold mbRecvBody
        dsimp only
        split
        · exact .done rfl
        · exact .done rfl
  | stGet sel sub =>
    refine Ends.of_when h ?_
    cases s.stReply sel sub with
    | error code => exact .fail rfl
    | words r0 r1 => exact .done rfl
  | svcCmp =>
    refine Ends.of_when h ?_
    obtain ⟨hp, n, q, hrq, ⟨m, b, hgo⟩ | ⟨info, hhalt⟩⟩ :=
      heapService_finish_cases ({ s with cf := false } : State) (fun t => { t with sleep := false })
    · rw [hgo]
      exact .completed rfl rfl rfl (.inl rfl) hrq
    · rw [hhalt]
      exact .raise rfl hrq
  | svcWrap =>
    refine Ends.of_when h ?_
    obtain ⟨hp, n, q, hrq, ⟨m, b, hgo⟩ | ⟨info, hhalt⟩⟩ :=
      heapService_finish_cases ({ s with wf := false } : State) (fun t => { t with sleep := false })
    · rw [hgo]
      exact .completed rfl rfl rfl (.inl rfl) hrq
    · rw [hhalt]
      exact .raise rfl hrq
  | svcEdge l =>
    rcases exec_svcEdge_cases h with hidle | ⟨-, -, rfl⟩ | ⟨-, i, -, rfl⟩
    · exact .idle hidle
    · exact .completed rfl rfl rfl (.inl rfl) id
    · obtain ⟨q, hrq, hgo | ⟨info, hhalt⟩⟩ := wakeWaiter_finish_cases ((s.clearPend l).setWs i noTask)
        (s.slotAt i).ws State.awake
      · rw [hgo]
        exact .completed rfl rfl rfl (.inl rfl) hrq
      · rw [hhalt]
        exact .raise rfl hrq
  | tick => exact Ends.of_when h (.completed rfl rfl rfl (.inl rfl) id)
  | pin l v => exact Ends.of_when h (.completed rfl rfl rfl (.inl rfl) id)

/-- An instruction writes the fields of its row of the table and no other. -/
theorem exec_written {i : Instr} {s t : State} (h : exec i s = .next t) : t = s.written i t := by
  cases exec_ends i s t h with
  | idle hidle =>
    rw [hidle]
    cases i with
    | tkPoll tid ph => cases ph <;> rfl
    | _ => rfl
  | completed hw => exact hw
  | halted hw => exact hw

/-! ## The rows that a field is not in -/

theorem written_port (s : State) (i : Instr) (t : State) :
    (s.written i t).arg = s.arg ∧ (s.written i t).cmd = s.cmd ∧ (s.written i t).cfg = s.cfg ∧
      (s.written i t).agenda = s.agenda ∧ (s.written i t).rdata = s.rdata := by
  cases i with
  | tkPoll tid ph => cases ph <;> exact ⟨rfl, rfl, rfl, rfl, rfl⟩
  | _ => exact ⟨rfl, rfl, rfl, rfl, rfl⟩

theorem written_results (s : State) (i : Instr) (t : State) (hi : i.isHostOp = false) :
    (s.written i t).res0 = s.res0 ∧ (s.written i t).res1 = s.res1 ∧ (s.written i t).status = s.status := by
  cases i with
  | svcCmp | svcWrap | svcEdge _ | tick | pin _ _ => exact ⟨rfl, rfl, rfl⟩
  | _ => cases hi

/-- CMP, CIE, H and its arrangement are written by the operations that run `heap_service()` (R18, R19, R28). -/
theorem written_heap (s : State) (i : Instr) (t : State) (hinit : i ≠ .tkInit) (hpoll : ∀ tid, i ≠ .tkPoll tid .init)
    (hcmp : i ≠ .svcCmp) (hwrap : i ≠ .svcWrap) :
    (s.written i t).cmp = s.cmp ∧ (s.written i t).cie = s.cie ∧ (s.written i t).heap = s.heap ∧
      (s.written i t).arrangement = s.arrangement := by
  cases i with
  | tkInit => exact absurd rfl hinit
  | svcCmp => exact absurd rfl hcmp
  | svcWrap => exact absurd rfl hwrap
  | tkPoll tid ph =>
    cases ph with
    | init => exact absurd rfl (hpoll tid)
    | wait => exact ⟨rfl, rfl, rfl, rfl⟩
  | _ => exact ⟨rfl, rfl, rfl, rfl⟩

theorem written_cf (s : State) (i : Instr) (t : State) (hinit : i ≠ .tkInit) (htick : i ≠ .tick) (hcmp : i ≠ .svcCmp) :
    (s.written i t).cf = s.cf := by
  cases i with
  | tkInit => exact absurd rfl hinit
  | tick => exact absurd rfl htick
  | svcCmp => exact absurd rfl hcmp
  | tkPoll tid ph => cases ph <;> rfl
  | _ => rfl

theorem written_wf (s : State) (i : Instr) (t : State) (hinit : i ≠ .tkInit) (htick : i ≠ .tick)
    (hwrap : i ≠ .svcWrap) : (s.written i t).wf = s.wf := by
  cases i with
  | tkInit => exact absurd rfl hinit
  | tick => exact absurd rfl htick
  | svcWrap => exact absurd rfl hwrap
  | tkPoll tid ph => cases ph <;> rfl
  | _ => rfl

theorem written_tken (s : State) (i : Instr) (t : State) (hinit : i ≠ .tkInit) : (s.written i t).tken = s.tken := by
  cases i with
  | tkInit => exact absurd rfl hinit
  | tkPoll tid ph => cases ph <;> rfl
  | _ => rfl

theorem written_exen (s : State) (i : Instr) (t : State) (hinit : i ≠ .exInit) : (s.written i t).exen = s.exen := by
  cases i with
  | exInit => exact absurd rfl hinit
  | tkPoll tid ph => cases ph <;> rfl
  | _ => rfl

theorem written_pin (s : State) (i : Instr) (t : State) (hpin : ∀ l v, i ≠ .pin l v) : (s.written i t).pin = s.pin := by
  cases i with
  | pin l v => exact absurd rfl (hpin l v)
  | tkPoll tid ph => cases ph <;> rfl
  | _ => rfl

theorem written_pend (s : State) (i : Instr) (t : State) (hpin : ∀ l v, i ≠ .pin l v) (hedge : ∀ l, i ≠ .svcEdge l) :
    (s.written i t).pend = s.pend := by
  cases i with
  | pin l v => exact absurd rfl (hpin l v)
  | svcEdge l => exact absurd rfl (hedge l)
  | tkPoll tid ph => cases ph <;> rfl
  | _ => rfl

theorem written_slots (s : State) (i : Instr) (t : State) (hset : ∀ x v, i ≠ .ewSet x v) (hpoll : ∀ a b, i ≠ .ewPoll a b)
    (hedge : ∀ l, i ≠ .svcEdge l) : (s.written i t).slots = s.slots := by
  cases i with
  | ewSet x v => exact absurd rfl (hset x v)
  | ewPoll a b => exact absurd rfl (hpoll a b)
  | svcEdge l => exact absurd rfl (hedge l)
  | tkPoll tid ph => cases ph <;> rfl
  | _ => rfl

theorem written_mboxes (s : State) (i : Instr) (t : State) (hsend : ∀ m, i ≠ .mbSend m)
    (hrecv : ∀ a m p, i ≠ .mbRecv a m p) : (s.written i t).mboxes = s.mboxes := by
  cases i with
  | mbSend m => exact absurd rfl (hsend m)
  | mbRecv a m p => exact absurd rfl (hrecv a m p)
  | tkPoll tid ph => cases ph <;> rfl
  | _ => rfl

theorem exec_cfg {i : Instr} {s t : State} (h : exec i s = .next t) : t.cfg = s.cfg := by
  obtain ⟨-, -, hcfg, -⟩ := written_port s i t
  rwa [← exec_written h] at hcfg

/-! ## The tick unit and the heap -/

/-- A field f that neither `heap_service()`, nor the halt, nor the ending k writes. -/
theorem heapService_finish_field {α : Type} (f : State → α) (s : State) (k : State → State) (hk : ∀ u, f (k u) = f u)
    (hservice : ∀ h n q m b, f { s with heap := h, arrangement := n, rq := q, cmp := m, cie := b } = f s)
    (hraise : ∀ u cause info, f (u.raiseFatal cause info) = f u) : f (s.heapService.finish k) = f s := by
  obtain ⟨hp, n, q, -, ⟨m, b, hgo⟩ | ⟨info, hhalt⟩⟩ := heapService_finish_cases s k
  · rw [hgo, hk, hservice]
  · rw [hhalt, hraise]
    exact hservice hp n q s.cmp s.cie

/-- What TK_INIT can do to the three flags: nothing, where it is refused or not taken, or clear CF and WF and set TKEN. -/
theorem exec_tkInit_flags {s t : State} (h : exec .tkInit s = .next t) :
    (t.cf = s.cf ∧ t.wf = s.wf ∧ t.tken = s.tken) ∨ (t.cf = false ∧ t.wf = false ∧ t.tken = true) := by
  rcases State.when_cases h with ⟨-, rfl⟩ | ⟨-, rfl⟩
  · exact .inl ⟨rfl, rfl, rfl⟩
  · split
    · exact .inl ⟨rfl, rfl, rfl⟩
    · have hflags := heapService_finish_field (fun u => (u.cf, u.wf, u.tken)) s.tickerCleared (fun t => t.done 0#32 0#32)
        (fun _ => rfl) (fun _ _ _ _ _ => rfl) (fun _ _ _ => rfl)
      simp only [Prod.mk.injEq] at hflags
      exact .inr hflags

theorem exec_svcCmp_cf {s t : State} (h : exec .svcCmp s = .next t) : t.cf = s.cf ∨ t.cf = false := by
  rcases State.when_cases h with ⟨-, rfl⟩ | ⟨-, rfl⟩
  · exact .inl rfl
  · exact .inr (heapService_finish_field State.cf ({ s with cf := false } : State) _ (fun _ => rfl)
      (fun _ _ _ _ _ => rfl) (fun _ _ _ => rfl))

theorem exec_svcWrap_wf {s t : State} (h : exec .svcWrap s = .next t) : t.wf = s.wf ∨ t.wf = false := by
  rcases State.when_cases h with ⟨-, rfl⟩ | ⟨-, rfl⟩
  · exact .inl rfl
  · exact .inr (heapService_finish_field State.wf ({ s with wf := false } : State) _ (fun _ => rfl)
      (fun _ _ _ _ _ => rfl) (fun _ _ _ => rfl))

/-- TICK clears neither flag. -/
theorem exec_tick_flags {s t : State} (h : exec .tick s = .next t) :
    (s.cf = true → t.cf = true) ∧ (s.wf = true → t.wf = true) := by
  rcases State.when_cases h with ⟨-, rfl⟩ | ⟨-, rfl⟩
  · exact ⟨id, id⟩
  · exact ⟨fun hcf => by simp [cfAfterTick, hcf], fun hwf => by simp [wfAfterTick, hwf]⟩

theorem exec_exInit_exen {s t : State} (h : exec .exInit s = .next t) : t.exen = s.exen ∨ t.exen = true := by
  rcases State.when_cases h with ⟨-, rfl⟩ | ⟨-, rfl⟩
  · exact .inl rfl
  · split
    · exact .inl rfl
    · obtain ⟨q, -, hgo | ⟨info, hhalt⟩⟩ :=
        wakeAll_finish_cases (taskIds s.cfg) s.executorCleared (fun t => t.done 0#32 0#32)
      · exact .inr (congrArg State.exen hgo)
      · exact .inr (congrArg State.exen hhalt)

theorem exec_tken_mono {i : Instr} {s t : State} (h : exec i s = .next t) (ht : s.tken = true) : t.tken = true := by
  by_cases hi : i = .tkInit
  · subst hi
    rcases exec_tkInit_flags h with ⟨-, -, hkeep⟩ | ⟨-, -, hset⟩
    · rw [hkeep, ht]
    · exact hset
  · rw [exec_written h, written_tken s i t hi, ht]

theorem exec_exen_mono {i : Instr} {s t : State} (h : exec i s = .next t) (he : s.exen = true) : t.exen = true := by
  by_cases hi : i = .exInit
  · subst hi
    rcases exec_exInit_exen h with hkeep | hset
    · rw [hkeep, he]
    · exact hset
  · rw [exec_written h, written_exen s i t hi, he]

/-- CF is set by TICK alone (R20). -/
theorem exec_cf_of_false {i : Instr} {s t : State} (h : exec i s = .next t) (hi : i ≠ .tick) (hcf : s.cf = false) :
    t.cf = false := by
  by_cases hinit : i = .tkInit
  · subst hinit
    rcases exec_tkInit_flags h with ⟨hkeep, -, -⟩ | ⟨hclear, -, -⟩
    · rw [hkeep, hcf]
    · exact hclear
  by_cases hcmp : i = .svcCmp
  · subst hcmp
    rcases exec_svcCmp_cf h with hkeep | hclear
    · rw [hkeep, hcf]
    · exact hclear
  · rw [exec_written h, written_cf s i t hinit hi hcmp, hcf]

/-- WF is set by TICK alone (R21). -/
theorem exec_wf_of_false {i : Instr} {s t : State} (h : exec i s = .next t) (hi : i ≠ .tick) (hwf : s.wf = false) :
    t.wf = false := by
  by_cases hinit : i = .tkInit
  · subst hinit
    rcases exec_tkInit_flags h with ⟨-, hkeep, -⟩ | ⟨-, hclear, -⟩
    · rw [hkeep, hwf]
    · exact hclear
  by_cases hwrap : i = .svcWrap
  · subst hwrap
    rcases exec_svcWrap_wf h with hkeep | hclear
    · rw [hkeep, hwf]
    · exact hclear
  · rw [exec_written h, written_wf s i t hinit hi hwrap, hwf]

theorem exec_cf_of_true {i : Instr} {s t : State} (h : exec i s = .next t) (hinit : i ≠ .tkInit) (hcmp : i ≠ .svcCmp)
    (hcf : s.cf = true) : t.cf = true := by
  by_cases htick : i = .tick
  · subst htick
    exact (exec_tick_flags h).1 hcf
  · rw [exec_written h, written_cf s i t hinit htick hcmp, hcf]

theorem exec_wf_of_true {i : Instr} {s t : State} (h : exec i s = .next t) (hinit : i ≠ .tkInit) (hwrap : i ≠ .svcWrap)
    (hwf : s.wf = true) : t.wf = true := by
  by_cases htick : i = .tick
  · subst htick
    exact (exec_tick_flags h).2 hwf
  · rw [exec_written h, written_wf s i t hinit htick hwrap, hwf]

/-- Settles O50: the table gives who writes, and the flags of TK_INIT, of the two services and of TICK give which way. -/
theorem timerStateHasItsOnlyWriters : Obligations.TimerStateHasItsOnlyWriters := by
  intro i s t h
  refine ⟨fun hi => exec_cnt_of_ne_tick i s t hi h, fun hinit hpoll hcmp hwrap => ?_,
    fun hi => ⟨exec_cf_of_false h hi, exec_wf_of_false h hi⟩, exec_cf_of_true h, exec_wf_of_true h, exec_tken_mono h,
    exec_exen_mono h, fun hi => ?_, fun hi => ?_⟩
  · obtain ⟨hcmpEq, hcieEq, hheapEq, -⟩ := written_heap s i t hinit hpoll hcmp hwrap
    rw [exec_written h]
    exact ⟨hcmpEq, hcieEq, hheapEq⟩
  · rw [exec_written h, written_tken s i t hi]
  · rw [exec_written h, written_exen s i t hi]

/-! ## One field of the elements of a list -/

/-- Setting an element to one that agrees on f with what was read there leaves the list of f unchanged. -/
theorem map_set_of_getD_eq {α β : Type} (f : α → β) (l : List α) (i : Nat) (d x : α) (h : f x = f (l.getD i d)) :
    (l.set i x).map f = l.map f := by
  by_cases hi : i < l.length
  · rw [List.map_set, h, List.getD_eq_getElem l d hi]
    have hset := List.set_getElem_self (as := l.map f) (i := i) (by rwa [List.length_map])
    rwa [List.getElem_map] at hset
  · rw [List.set_eq_of_length_le (Nat.not_lt.mp hi)]

theorem setWs_targets (s : State) (i : Nat) (t : Byte) :
    (s.setWs i t).slots.map Slot.target = s.slots.map Slot.target :=
  map_set_of_getD_eq Slot.target s.slots i _ _ rfl

theorem setTarget_ws (s : State) (i : Nat) (v : Level) : (s.setTarget i v).slots.map Slot.ws = s.slots.map Slot.ws :=
  map_set_of_getD_eq Slot.ws s.slots i _ _ rfl

theorem storeItem_mbw (s : State) (i : Nat) (v : Word) :
    (s.storeItem i v).mboxes.map Mailbox.mbw = s.mboxes.map Mailbox.mbw :=
  map_set_of_getD_eq Mailbox.mbw s.mboxes i _ _ rfl

theorem takeItem_mbw (s : State) (i : Nat) : (s.takeItem i).mboxes.map Mailbox.mbw = s.mboxes.map Mailbox.mbw :=
  map_set_of_getD_eq Mailbox.mbw s.mboxes i _ _ rfl

theorem takeItem_mbi (s : State) (i : Nat) : (s.takeItem i).mboxes.map Mailbox.mbi = s.mboxes.map Mailbox.mbi :=
  map_set_of_getD_eq Mailbox.mbi s.mboxes i _ _ rfl

theorem setMbw_mbi (s : State) (i : Nat) (t : Byte) : (s.setMbw i t).mboxes.map Mailbox.mbi = s.mboxes.map Mailbox.mbi :=
  map_set_of_getD_eq Mailbox.mbi s.mboxes i _ _ rfl

/-! ## What the instructions that write slots or mailboxes can leave there -/

theorem exec_ewSet_slots {s t : State} {slot : Byte} {lvl : Level} (h : exec (.ewSet slot lvl) s = .next t) :
    t.slots = s.slots ∨ t.slots = (s.setTarget slot.toNat lvl).slots := by
  rcases State.when_cases h with ⟨-, rfl⟩ | ⟨-, rfl⟩
  · exact .inl rfl
  · split
    · exact .inr rfl
    · exact .inl rfl

/-- EW_POLL writes the slot only with a valid caller. -/
theorem exec_ewPoll_slots {s t : State} {tid slot : Byte} (h : exec (.ewPoll tid slot) s = .next t) :
    t.slots = s.slots ∨ (validTid s.cfg tid = true ∧ t.slots = (s.setWs slot.toNat tid).slots) := by
  rcases State.when_cases h with ⟨-, rfl⟩ | ⟨-, rfl⟩
  · exact .inl rfl
  · split
    · exact .inl rfl
    · rename_i hrange
      simp only [Bool.not_eq_true, Bool.not_eq_false', Bool.and_eq_true] at hrange
      split
      · exact .inl rfl
      · exact .inr ⟨hrange.1, rfl⟩

theorem exec_svcEdge_slots {s t : State} {l : Nat} (h : exec (.svcEdge l) s = .next t) :
    t.slots = s.slots ∨ ∃ i, slotOfLine s.cfg l = some i ∧ t.slots = (s.setWs i noTask).slots := by
  rcases exec_svcEdge_cases h with rfl | ⟨-, -, rfl⟩ | ⟨-, i, hi, rfl⟩
  · exact .inl rfl
  · exact .inl rfl
  · obtain ⟨q, -, hgo | ⟨info, hhalt⟩⟩ := wakeWaiter_finish_cases ((s.clearPend l).setWs i noTask)
      (s.slotAt i).ws State.awake
    · exact .inr ⟨i, hi, (congrArg State.slots hgo :)⟩
    · exact .inr ⟨i, hi, (congrArg State.slots hhalt :)⟩

theorem exec_mbSend_mboxes {s t : State} {m : Byte} (h : exec (.mbSend m) s = .next t) :
    t.mboxes = s.mboxes ∨ t.mboxes = (s.storeItem m.toNat s.arg).mboxes := by
  rcases State.when_cases h with ⟨-, rfl⟩ | ⟨-, rfl⟩
  · exact .inl rfl
  · split
    · obtain ⟨q, -, hgo | ⟨info, hhalt⟩⟩ := wakeWaiter_finish_cases (s.storeItem m.toNat s.arg)
        ((s.storeItem m.toNat s.arg).mboxAt m.toNat).mbw (fun t => t.done 0#32 0#32)
      · exact .inr (congrArg State.mboxes hgo :)
      · exact .inr (congrArg State.mboxes hhalt :)
    · exact .inl rfl

/-- MB_RECV registers only a valid caller, and only in phase Init. -/
theorem exec_mbRecv_mboxes {s t : State} {tid m : Byte} {ph : Phase} (h : exec (.mbRecv tid m ph) s = .next t) :
    t.mboxes = s.mboxes ∨ (ph = .init ∧ validTid s.cfg tid = true ∧ t.mboxes = (s.setMbw m.toNat tid).mboxes) ∨
      t.mboxes = (s.takeItem m.toNat).mboxes := by
  rcases State.when_cases h with ⟨-, rfl⟩ | ⟨-, rfl⟩
  · exact .inl rfl
  · split
    · exact .inl rfl
    · rename_i hrange
      simp only [Bool.not_eq_true, Bool.not_eq_false', Bool.and_eq_true] at hrange
      cases ph with
      | init => exact .inr (.inl ⟨rfl, hrange.1, rfl⟩)
      | wait =>
        unfold mbRecvBody
        dsimp only
        split
        · exact .inr (.inr rfl)
        · exact .inl rfl

/-! ## The edge unit and the mailboxes -/

theorem exec_targets {i : Instr} {s t : State} (h : exec i s = .next t) (hset : ∀ x v, i ≠ .ewSet x v) :
    t.slots.map Slot.target = s.slots.map Slot.target := by
  by_cases hpoll : ∃ a b, i = .ewPoll a b
  · obtain ⟨a, b, rfl⟩ := hpoll
    rcases exec_ewPoll_slots h with hslots | ⟨-, hslots⟩
    · rw [hslots]
    · rw [hslots, setWs_targets]
  by_cases hedge : ∃ l, i = .svcEdge l
  · obtain ⟨l, rfl⟩ := hedge
    rcases exec_svcEdge_slots h with hslots | ⟨i, -, hslots⟩
    · rw [hslots]
    · rw [hslots, setWs_targets]
  · rw [exec_written h, written_slots s i t hset (fun a b he => hpoll ⟨a, b, he⟩) fun l he => hedge ⟨l, he⟩]

theorem exec_ws {i : Instr} {s t : State} (h : exec i s = .next t) (hpoll : ∀ a b, i ≠ .ewPoll a b)
    (hedge : ∀ l, i ≠ .svcEdge l) : t.slots.map Slot.ws = s.slots.map Slot.ws := by
  by_cases hset : ∃ x v, i = .ewSet x v
  · obtain ⟨x, v, rfl⟩ := hset
    rcases exec_ewSet_slots h with hslots | hslots
    · rw [hslots]
    · rw [hslots, setTarget_ws]
  · rw [exec_written h, written_slots s i t (fun x v he => hset ⟨x, v, he⟩) hpoll hedge]

theorem exec_mbi {i : Instr} {s t : State} (h : exec i s = .next t) (hsend : ∀ m, i ≠ .mbSend m) :
    t.mboxes.map Mailbox.mbi = s.mboxes.map Mailbox.mbi := by
  by_cases hrecv : ∃ a m p, i = .mbRecv a m p
  · obtain ⟨a, m, p, rfl⟩ := hrecv
    rcases exec_mbRecv_mboxes h with hm | ⟨-, -, hm⟩ | hm
    · rw [hm]
    · rw [hm, setMbw_mbi]
    · rw [hm, takeItem_mbi]
  · rw [exec_written h, written_mboxes s i t hsend fun a m p he => hrecv ⟨a, m, p, he⟩]

theorem exec_mbw {i : Instr} {s t : State} (h : exec i s = .next t) (hinit : ∀ a m, i ≠ .mbRecv a m .init) :
    t.mboxes.map Mailbox.mbw = s.mboxes.map Mailbox.mbw := by
  by_cases hsend : ∃ m, i = .mbSend m
  · obtain ⟨m, rfl⟩ := hsend
    rcases exec_mbSend_mboxes h with hm | hm
    · rw [hm]
    · rw [hm, storeItem_mbw]
  by_cases hrecv : ∃ a m p, i = .mbRecv a m p
  · obtain ⟨a, m, p, rfl⟩ := hrecv
    rcases exec_mbRecv_mboxes h with hm | ⟨hp, -, -⟩ | hm
    · rw [hm]
    · exact absurd (by rw [hp]) (hinit a m)
    · rw [hm, takeItem_mbw]
  · rw [exec_written h, written_mboxes s i t (fun m he => hsend ⟨m, he⟩) fun a m p he => hrecv ⟨a, m, p, he⟩]

/-- Settles O51: PIN and PEND by the table; of a slot or a mailbox each writer changes one field and keeps the others. -/
theorem edgeAndMailboxStateHaveTheirOnlyWriters : Obligations.EdgeAndMailboxStateHaveTheirOnlyWriters := by
  intro i s t h
  refine ⟨fun hpin => ?_, fun hpin hedge => ?_, exec_targets h, exec_ws h, exec_mbi h, exec_mbw h⟩
  · rw [exec_written h, written_pin s i t hpin]
  · rw [exec_written h, written_pend s i t hpin hedge]

/-! ## The port -/

/-- Settles O52: the table for the registers that no instruction writes, and the three ways to end for the results and the
cause: an instruction that is taken completes without a cause or halts without a result. -/
theorem portStateHasItsOnlyWriters : Obligations.PortStateHasItsOnlyWriters := by
  intro i s t h
  have hport := written_port s i t
  have hresults := written_results s i t
  rw [← exec_written h] at hport hresults
  obtain ⟨harg, hcmd, hcfg, hagenda, hrdata⟩ := hport
  have hfrozen : s.fatal = true → t = s := fun hf => exec_eq_of_fatal hf h
  refine ⟨harg, hcmd, hcfg, hagenda, hrdata, hresults, fun hf => ?_, fun hf => ?_, fun hf => ?_⟩
  · cases exec_ends i s t h with
    | idle hidle => rw [hidle]; exact ⟨rfl, rfl, rfl⟩
    | halted _ h0 h1 hstatus _ _ => exact ⟨h0, h1, hstatus⟩
    | completed _ hcause _ _ _ =>
      rw [State.fatal, hcause] at hf
      rw [hfrozen hf]
      exact ⟨rfl, rfl, rfl⟩
  · rw [hfrozen hf]
    exact ⟨rfl, rfl⟩
  · cases exec_ends i s t h with
    | idle hidle => rw [hidle]; exact ⟨rfl, rfl⟩
    | completed _ hcause hinfo _ _ => exact ⟨hcause, hinfo⟩
    | halted _ _ _ _ hcause _ =>
      obtain ⟨cause, hcause⟩ := hcause
      rw [State.fatal, hcause] at hf
      cases cause <;> cases hf

end Sys2Proof.Machine
end

section
/-! PROOFS. Host operations one by one and in short runs: TK_POLL (41_ticker.md R107), EW_POLL (42_edge.md R123, R130), EX_SLEEP
and the order of RQ (44_executor.md R146, R150), the mailbox (43_mailbox.md R135, R136), and the shown top (45_status.md
R157). -/

namespace Sys2Proof.Machine

/-! ## TK_POLL -/

theorem endTimeInRange_iff (c : Config) (v : Word) : endTimeInRange c v = true ↔ v.toNat < c.mod := by
  simp [endTimeInRange]

theorem encode_tkPoll (tid : Byte) (ph : Phase) : encode (.tkPoll tid ph) =
    some (0x13000000#32 ||| tid.zeroExtend 32 <<< 16 ||| BitVec.ofNat 32 ph.toBool.toNat) := by
  rw [encode, packWord_eq_or]
  simp

theorem exec_tkPoll_outOfRange (s : State) (tid : Byte) (ph : Phase) (h : s.hostReady = true)
    (hr : s.cfg.ntask ≤ tid.toNat ∨ s.cfg.mod ≤ s.arg.toNat) : exec (.tkPoll tid ph) s = .next (s.fail .errRange) := by
  have hout : ¬(validTid s.cfg tid = true ∧ endTimeInRange s.cfg s.arg = true) := by
    rw [validTid_iff, endTimeInRange_iff]
    omega
  simp [exec, execTkPoll, h, hout]

theorem exec_tkPoll_uninitialised (s : State) (tid : Byte) (ph : Phase) (h : s.hostReady = true)
    (ht : tid.toNat < s.cfg.ntask) (ha : s.arg.toNat < s.cfg.mod) (htk : s.tken = false) :
    exec (.tkPoll tid ph) s = .next (s.fail .errState) := by
  simp [exec, execTkPoll, h, (validTid_iff s.cfg tid).mpr ht, (endTimeInRange_iff s.cfg s.arg).mpr ha, htk]

theorem exec_tkPoll_body (s : State) (tid : Byte) (ph : Phase) (h : s.hostReady = true)
    (ht : tid.toNat < s.cfg.ntask) (ha : s.arg.toNat < s.cfg.mod) (htk : s.tken = true) :
    exec (.tkPoll tid ph) s = .next (tkPollBody tid ph s) := by
  simp [exec, execTkPoll, h, (validTid_iff s.cfg tid).mpr ht, (endTimeInRange_iff s.cfg s.arg).mpr ha, htk]

/-- READY in the poll word of a deadline-wait in phase Wait, whose next phase is Wait as well (R86, R107). -/
theorem pollWord_elapsed (b : Bool) : pollWord b true = if b = true then 3#32 else 2#32 := by
  cases b <;> rfl

/-- In phase Wait TK_POLL compares and registers nothing (R107). -/
theorem exec_tkPoll_wait (s : State) (tid : Byte) (h : s.hostReady = true) (ht : tid.toNat < s.cfg.ntask)
    (ha : s.arg.toNat < s.cfg.mod) (htk : s.tken = true) :
    exec (.tkPoll tid .wait) s = .next (s.done (if elapsed s.cfg s.arg s.cnt = true then 3#32 else 2#32) 0#32) := by
  rw [exec_tkPoll_body s tid .wait h ht ha htk, tkPollBody, instantOf_self s.cfg s.arg ha, pollWord_elapsed]

/-- `elapsed` on tick values, with the difference taken on natural numbers (R13, R93). -/
theorem elapsed_iff_nat (c : Config) (hm : c.mod ≤ 2 ^ 32) (d now : Word) (hd : d.toNat < c.mod)
    (hn : now.toNat < c.mod) : elapsed c d now = true ↔ (now.toNat + c.mod - d.toNat) % c.mod < c.half := by
  rw [elapsed, decide_eq_true_eq]
  rcases tSub_cases c hm now d hn hd with ⟨hle, heq⟩ | ⟨hlt, heq⟩
  · rw [heq, show now.toNat + c.mod - d.toNat = now.toNat - d.toNat + c.mod by omega, Nat.add_mod_right,
      Nat.mod_eq_of_lt (by omega)]
  · rw [heq, show now.toNat + c.mod - d.toNat = c.mod - (d.toNat - now.toNat) by omega, Nat.mod_eq_of_lt (by omega)]

/-- Settles O21: the tests of range and of the initialisation come first, in this order, and in phase Wait the comparison is all
that is left. -/
theorem tkPollWaitComparesAndRefusesInOrder : Obligations.TkPollWaitComparesAndRefusesInOrder := by
  refine fun s tid ph => ⟨encode_tkPoll tid ph, fun hs hwf hn => ⟨fun hr => ?_, fun ht ha htk => ?_, fun ht ha htk => ?_⟩⟩
  · exact exec_tkPoll_outOfRange s tid ph hs hr
  · exact exec_tkPoll_uninitialised s tid ph hs ht ha htk
  · rw [exec_tkPoll_wait s tid hs ht ha htk]
    simp only [elapsed_iff_nat s.cfg (wf_mod_le s.cfg hwf) s.arg s.cnt ha hn]
    rfl

/-! ## EW_POLL -/

theorem encode_ewPoll (tid slot : Byte) : encode (.ewPoll tid slot) =
    some (0x21000000#32 ||| tid.zeroExtend 32 <<< 16 ||| slot.zeroExtend 32 <<< 8) := by
  rw [encode, packWord_eq_or]
  simp

theorem exec_ewPoll_outOfRange (s : State) (tid slot : Byte) (h : s.hostReady = true)
    (hr : s.cfg.ntask ≤ tid.toNat ∨ s.cfg.nslot ≤ slot.toNat) :
    exec (.ewPoll tid slot) s = .next (s.fail .errRange) := by
  have hout : ¬(validTid s.cfg tid = true ∧ slotInRange s.cfg slot = true) := by
    rw [validTid_iff, slotInRange_iff]
    omega
  simp [exec, execEwPoll, h, hout]

theorem exec_ewPoll_inRange (s : State) (tid slot : Byte) (h : s.hostReady = true) (ht : tid.toNat < s.cfg.ntask)
    (hslot : slot.toNat < s.cfg.nslot) : exec (.ewPoll tid slot) s = .next
      (if s.atTarget slot.toNat = true then s.done 1#32 0#32 else (s.setWs slot.toNat tid).done 0#32 0#32) := by
  simp [exec, execEwPoll, h, (validTid_iff s.cfg tid).mpr ht, (slotInRange_iff s.cfg slot).mpr hslot, pollWord]

theorem atTarget_iff (s : State) (i l : Nat) (hl : s.cfg.lineOfSlot[i]? = some l) :
    s.atTarget i = true ↔ s.pinAt l = (s.slotAt i).target := by
  simp [State.atTarget, lineOfSlot, hl]

/-- Settles O33: in range the comparison of the line's level with the target decides between the two results. -/
theorem ewPollComparesOrRegisters : Obligations.EwPollComparesOrRegisters := by
  refine fun s tid slot => ⟨encode_ewPoll tid slot, fun hs => ⟨exec_ewPoll_outOfRange s tid slot hs, fun l ht hl => ?_⟩⟩
  have hslot : slot.toNat < s.cfg.nslot := (List.getElem?_eq_some_iff.mp hl).1
  have hexec := exec_ewPoll_inRange s tid slot hs ht hslot
  refine ⟨fun heq => ?_, fun hne => ?_⟩
  · rw [hexec, if_pos ((atTarget_iff s slot.toNat l hl).mpr heq)]
    rfl
  · rw [hexec, if_neg (mt (atTarget_iff s slot.toNat l hl).mp hne)]
    rfl

/-! ## EX_SLEEP -/

/-- Settles O47: SLEEP takes the emptiness of RQ, and HOST was awake before. -/
theorem exSleepSleepsOnlyOnAnEmptyQueue : Obligations.ExSleepSleepsOnlyOnAnEmptyQueue := by
  refine ⟨rfl, fun s hs => ?_⟩
  obtain ⟨-, hawake⟩ := s.hostReady_iff.mp hs
  have hexec : exec .exSleep s = .next (({ s with sleep := s.rq.isEmpty } : State).done 0#32 0#32) := by
    simp [exec, execExSleep, hs, hawake]
  refine ⟨fun hempty => ?_, fun hne => ?_⟩
  · rw [hexec, hempty]
    rfl
  · rw [hexec, List.isEmpty_eq_false_iff.mpr hne, ← hawake]
    rfl

/-! ## Runs of instructions -/

theorem execAll_cons_of_next {i : Instr} {is : List Instr} {s t : State} (h : exec i s = .next t) :
    execAll (i :: is) s = execAll is t := by
  simp [execAll, h]

/-- No instruction of a run fails to end in a next state, so the run is its first instruction and the rest. -/
theorem execAll_cons (i : Instr) (is : List Instr) (s : State) :
    ∃ t, exec i s = .next t ∧ execAll (i :: is) s = execAll is t := by
  obtain ⟨t, ht⟩ := exec_total i s
  exact ⟨t, ht, execAll_cons_of_next ht⟩

/-! ## The order of RQ -/

theorem exec_wake_room (s : State) (tid : Byte) (h : s.hostReady = true) (hroom : s.rq.length < s.cfg.rqCap) :
    exec (.wake tid) s = .next ((s.rqAppend tid).done 0#32 0#32) := by
  rw [exec_wake s tid h, wake_room s tid hroom.ne, Flow.finish_go]

/-- A run of WAKE with room for it appends its identities and leaves HOST ready. -/
theorem execAll_wake (ts : List Byte) (s : State) (h : s.hostReady = true)
    (hroom : s.rq.length + ts.length ≤ s.cfg.rqCap) :
    ∃ u, execAll (ts.map Instr.wake) s = some u ∧ u.rq = s.rq ++ ts ∧ u.hostReady = true ∧ u.cfg = s.cfg := by
  induction ts generalizing s with
  | nil => exact ⟨s, rfl, by simp, h, rfl⟩
  | cons t ts ih =>
    rw [List.length_cons] at hroom
    have hstep := exec_wake_room s t h (by omega)
    obtain ⟨u, hrun, hrq, hready, hcfg⟩ := ih ((s.rqAppend t).done 0#32 0#32) h
      (by rw [State.done_rq, State.rqAppend_rq, List.length_append, List.length_singleton]
          exact (Nat.add_assoc ..).trans_le ((Nat.add_comm 1 _ ▸ hroom)))
    refine ⟨u, ?_, ?_, hready, hcfg⟩
    · rw [List.map_cons, execAll_cons_of_next hstep, hrun]
    · rw [hrq, State.done_rq, State.rqAppend_rq, List.append_assoc, List.singleton_append]

/-- A run of EX_NEXT no longer than RQ takes its first entries out. -/
theorem execAll_exNext (n : Nat) (s : State) (h : s.hostReady = true) (hn : n ≤ s.rq.length) :
    ∃ v, execAll (List.replicate n .exNext) s = some v ∧ v.rq = s.rq.drop n ∧ v.hostReady = true ∧ v.cfg = s.cfg := by
  induction n generalizing s with
  | zero => exact ⟨s, rfl, rfl, h, rfl⟩
  | succ n ih =>
    cases hrq : s.rq with
    | nil => rw [hrq] at hn; exact absurd hn (Nat.not_succ_le_zero n)
    | cons t ts =>
      have hstep := exec_exNext_cons s t ts h hrq
      rw [hrq, List.length_cons] at hn
      obtain ⟨v, hrun, hv, hready, hcfg⟩ := ih _ (show State.hostReady (State.done { s with rq := ts } _ _) = true from h)
        (Nat.le_of_succ_le_succ hn)
      exact ⟨v, by rw [List.replicate_succ, execAll_cons_of_next hstep, hrun], hv, hready, hcfg⟩

/-- Settles O48: RQ is the list of what was queued and then woken, n EX_NEXT drop its first n entries, and the next one answers
with the head of the rest. -/
theorem wakesLeaveInTheirOrder : Obligations.WakesLeaveInTheirOrder := by
  intro s ts hs hroom
  obtain ⟨u, hrun, hrq, hready, hcfg⟩ := execAll_wake ts s hs hroom
  refine ⟨u, hrun, hrq, fun n hn => ?_⟩
  obtain ⟨v, hnext, hvrq, hvready, hvcfg⟩ := execAll_exNext n u hready hn.le
  rw [List.drop_eq_getElem_cons hn] at hvrq
  refine ⟨v, _, hnext, exec_exNext_cons v _ _ hvready hvrq, u.rq[n], ?_, rfl, ?_⟩
  · rw [← hrq, List.getElem?_eq_getElem hn]
  · rw [State.done_res0, hvcfg, hcfg]
    split <;> rfl

/-! ## The mailbox -/

theorem takeItem_mboxAt_mbf (s : State) (i : Nat) : ((s.takeItem i).mboxAt i).mbf = false := by
  by_cases h : i < s.mboxes.length <;> simp [State.mboxAt, h]

theorem storeItem_mboxAt (s : State) (i : Nat) (v : Word) (h : i < s.mboxes.length) :
    (s.storeItem i v).mboxAt i = Mailbox.mk true v (s.mboxAt i).mbw := by
  simp [State.mboxAt, h]

/-- The identity that MB_SEND wakes, if a waker is registered (R133). -/
def State.wakerOf (s : State) (i : Nat) : List Byte := if (s.mboxAt i).mbw = noTask then [] else [(s.mboxAt i).mbw]

/-- The state after a send with room in RQ: the item stored, the registered waker, if there is one, appended (R133). -/
def State.sent (s : State) (i : Nat) : State :=
  ({ s.storeItem i s.arg with rq := s.rq ++ s.wakerOf i } : State).done 0#32 0#32

theorem exec_mbSend_room (s : State) (m : Byte) (h : s.hostReady = true) (hr : m.toNat < s.cfg.nmbox)
    (hroom : s.rq.length < s.cfg.rqCap) : exec (.mbSend m) s = .next (s.sent m.toNat) := by
  rw [exec_mbSend_inRange s m h hr, State.sent, State.wakerOf]
  by_cases hnone : (s.mboxAt m.toNat).mbw = noTask
  · rw [wakeWaiter_of_eq _ _ hnone, if_pos hnone, List.append_nil]
    rfl
  · rw [wakeWaiter_of_ne _ _ hnone, if_neg hnone, wake_room (s.storeItem m.toNat s.arg) _ hroom.ne]
    rfl

@[simp] theorem sent_rq (s : State) (i : Nat) : (s.sent i).rq = s.rq ++ s.wakerOf i := rfl

/-- A send keeps the registration, so the next one wakes the same waker. -/
theorem sent_wakerOf (s : State) (i : Nat) : (s.sent i).wakerOf i = s.wakerOf i := by
  have hmbw : ((s.sent i).mboxAt i).mbw = (s.mboxAt i).mbw := storeItem_mboxAt_mbw s i s.arg
  rw [State.wakerOf, State.wakerOf, hmbw]

theorem sent_mboxAt (s : State) (i : Nat) (h : i < s.mboxes.length) :
    (s.sent i).mboxAt i = Mailbox.mk true s.arg (s.mboxAt i).mbw := storeItem_mboxAt s i s.arg h

theorem sent_mboxes_length (s : State) (i : Nat) : (s.sent i).mboxes.length = s.mboxes.length := List.length_set

theorem length_wakerOf_le (s : State) (i : Nat) : (s.wakerOf i).length ≤ 1 := by
  unfold State.wakerOf
  split <;> simp

theorem exec_mbRecv_wait_present (s : State) (tid m : Byte) (h : s.hostReady = true) (ht : tid.toNat < s.cfg.ntask)
    (hm : m.toNat < s.cfg.nmbox) (hfull : (s.mboxAt m.toNat).mbf = true) :
    exec (.mbRecv tid m .wait) s = .next ((s.takeItem m.toNat).done 3#32 (s.mboxAt m.toNat).mbi) := by
  rw [exec_mbRecv_inRange s tid m .wait h ht hm, mbRecvBody_wait_present s tid m hfull]

theorem exec_mbRecv_wait_absent (s : State) (tid m : Byte) (h : s.hostReady = true) (ht : tid.toNat < s.cfg.ntask)
    (hm : m.toNat < s.cfg.nmbox) (hempty : (s.mboxAt m.toNat).mbf = false) :
    exec (.mbRecv tid m .wait) s = .next (s.done 2#32 0#32) := by
  rw [exec_mbRecv_inRange s tid m .wait h ht hm, mbRecvBody_wait_absent s tid m hempty]

/-- Receives from an empty mailbox stay Pending, however many follow one another. -/
theorem execAll_mbRecv_absent (n : Nat) (s : State) (tid m : Byte) (h : s.hostReady = true)
    (ht : tid.toNat < s.cfg.ntask) (hm : m.toNat < s.cfg.nmbox) (hempty : (s.mboxAt m.toNat).mbf = false) :
    ∃ v, execAll (List.replicate (n + 1) (.mbRecv tid m .wait)) s = some v ∧ v.res0 = 2#32 ∧ v.res1 = 0#32 := by
  induction n generalizing s with
  | zero => exact ⟨_, execAll_cons_of_next (exec_mbRecv_wait_absent s tid m h ht hm hempty), rfl, rfl⟩
  | succ n ih =>
    rw [List.replicate_succ, execAll_cons_of_next (exec_mbRecv_wait_absent s tid m h ht hm hempty)]
    exact ih (s.done 2#32 0#32) h ht hm hempty

/-- A receive in phase Wait just after a send with room in RQ takes the item that was sent. -/
theorem exec_mbRecv_of_sent (s : State) (tid m : Byte) (h : s.hostReady = true) (ht : tid.toNat < s.cfg.ntask)
    (hm : m.toNat < s.cfg.nmbox) (hlen : m.toNat < s.mboxes.length) :
    exec (.mbRecv tid m .wait) (s.sent m.toNat) =
      .next (((s.sent m.toNat).takeItem m.toNat).done 3#32 s.arg) := by
  have hbox := sent_mboxAt s m.toNat hlen
  rw [exec_mbRecv_wait_present (s.sent m.toNat) tid m h ht hm (by rw [hbox]), hbox]

/-- Settles O40: the first receive finds the item that the send stored and empties the mailbox, so that every later one finds
none. -/
theorem sentItemIsReceivedExactlyOnce : Obligations.SentItemIsReceivedExactlyOnce := by
  intro s tid m n hs hshape ht hm hroom
  obtain ⟨-, -, -, hlen⟩ := hshape
  have hrecv := exec_mbRecv_of_sent s tid m hs ht hm (hlen ▸ hm)
  obtain ⟨v, hrun, hv0, hv1⟩ := execAll_mbRecv_absent n (((s.sent m.toNat).takeItem m.toNat).done 3#32 s.arg) tid m hs ht
    hm (takeItem_mboxAt_mbf _ m.toNat)
  refine ⟨_, v, ?_, rfl, rfl, hrun, hv0, hv1⟩
  rw [execAll_cons_of_next (exec_mbSend_room s m hs hm hroom), execAll_cons_of_next hrecv]
  rfl

/-- Settles O41: the second send finds the waker that the first kept, and stores over the first item. -/
theorem secondSendOverwritesTheFirst : Obligations.SecondSendOverwritesTheFirst := by
  intro s tid m v2 hs hshape ht hm hroom
  obtain ⟨-, -, -, hlen⟩ := hshape
  have hlen1 := length_wakerOf_le s m.toNat
  have hroom2 : (s.sent m.toNat).rq.length < s.cfg.rqCap := by
    rw [sent_rq, List.length_append]
    omega
  have hbox : m.toNat < (s.sent m.toNat).mboxes.length := by
    rw [sent_mboxes_length, hlen]
    exact hm
  have hsend2 := exec_mbSend_room { s.sent m.toNat with arg := v2 } m hs hm hroom2
  have hrecv := exec_mbRecv_of_sent { s.sent m.toNat with arg := v2 } tid m hs ht hm hbox
  refine ⟨_, _, _, exec_mbSend_room s m hs hm (by omega), hsend2, hrecv, rfl, rfl, takeItem_mboxAt_mbf _ m.toNat,
    fun hsome => ?_⟩
  have hwaker : s.wakerOf m.toNat = [(s.mboxAt m.toNat).mbw] := if_neg hsome
  have hrq : s.rq ++ s.wakerOf m.toNat ++ (s.sent m.toNat).wakerOf m.toNat =
      s.rq ++ [(s.mboxAt m.toNat).mbw, (s.mboxAt m.toNat).mbw] := by
    rw [sent_wakerOf, hwaker, List.append_assoc, List.singleton_append]
  exact hrq

/-! ## From an edge to the target back to Ready (R130) -/

theorem set_getD_self {α : Type} (l : List α) (i : Nat) (x d : α) (h : i < l.length) : (l.set i x).getD i d = x := by
  simp [h]

theorem setWs_slotAt (s : State) (i : Nat) (t : Byte) (h : i < s.slots.length) :
    (s.setWs i t).slotAt i = { s.slotAt i with ws := t } := set_getD_self s.slots i _ _ h

theorem wf_ntask_le (c : Config) (h : c.wf = true) : c.ntask ≤ 254 := by
  simp only [Config.wf, Config.ntaskOk, Bool.and_eq_true, decide_eq_true_eq] at h
  omega

theorem ne_noTask_of_lt_ntask (c : Config) (h : c.wf = true) (t : Byte) (ht : t.toNat < c.ntask) : t ≠ noTask := by
  rintro rfl
  have := wf_ntask_le c h
  exact absurd ht (by change ¬255 < c.ntask; omega)

theorem wf_lineOfSlot_lt (c : Config) (h : c.wf = true) (i l : Nat) (hl : c.lineOfSlot[i]? = some l) : l < c.nline := by
  simp only [Config.wf, Config.slotsOk, Bool.and_eq_true, decide_eq_true_eq, List.all_eq_true] at h
  obtain ⟨⟨⟨⟨-, ⟨-, hall⟩, -⟩, -⟩, -⟩, -⟩ := h
  exact hall l (List.mem_of_getElem? hl)

/-- A Pending EW_POLL leaves its caller in the slot, and the line, PEND and RQ as they are (R123). -/
theorem exec_ewPoll_pending (s : State) (tid slot : Byte) (h : s.hostReady = true) (ht : tid.toNat < s.cfg.ntask)
    (hslot : slot.toNat < s.cfg.nslot) (hlen : slot.toNat < s.slots.length) (hoff : s.atTarget slot.toNat ≠ true) :
    ∃ t, exec (.ewPoll tid slot) s = .next t ∧ t.res0 = 0#32 ∧
      t.slotAt slot.toNat = { s.slotAt slot.toNat with ws := tid } ∧ t.slots.length = s.slots.length ∧ t.cfg = s.cfg ∧
      t.fcause = s.fcause ∧ t.pin = s.pin ∧ t.pend = s.pend ∧ t.rq = s.rq := by
  refine ⟨(s.setWs slot.toNat tid).done 0#32 0#32, ?_, rfl, setWs_slotAt s slot.toNat tid hlen, List.length_set, rfl, rfl,
    rfl, rfl, rfl⟩
  rw [exec_ewPoll_inRange s tid slot h ht hslot, if_neg hoff]

/-- A change of a line with an enabled edge stores the level and sets PEND (R126). -/
theorem exec_pin_edge (s : State) (l : Nat) (v : Level) (hf : s.fcause = 0#32) (hl : l < s.cfg.nline)
    (hpin : l < s.pin.length) (hpend : l < s.pend.length) (hv : v ≠ s.pinAt l) (hedge : edgeEnabled s.cfg l v = true) :
    ∃ t, exec (.pin l v) s = .next t ∧ t.pinAt l = v ∧ t.pendAt l = true ∧ t.cfg = s.cfg ∧ t.fcause = s.fcause ∧
      t.slots = s.slots ∧ t.rq = s.rq := by
  refine ⟨_, exec_pin s l v ((s.pinReady_iff l v).mpr ⟨hf, hl, hv⟩), set_getD_self s.pin l v _ hpin, ?_, rfl, rfl, rfl, rfl⟩
  rw [if_pos hedge]
  exact set_getD_self s.pend l true _ hpend

/-- The edge service of a slot's line with a waiter and room in RQ wakes the waiter and leaves HOST ready (R127). -/
theorem exec_svcEdge_waiter (s : State) (i l : Nat) (hf : s.fcause = 0#32) (hp : s.pendAt l = true) (hw : s.cfg.wf = true)
    (hi : s.cfg.lineOfSlot[i]? = some l) (hlen : i < s.slots.length) (hsome : (s.slotAt i).ws ≠ noTask)
    (hroom : s.rq.length < s.cfg.rqCap) :
    ∃ t, exec (.svcEdge l) s = .next t ∧ t.rq = s.rq ++ [(s.slotAt i).ws] ∧
      t.slotAt i = { s.slotAt i with ws := noTask } ∧ t.hostReady = true ∧ t.cfg = s.cfg ∧ t.pin = s.pin := by
  obtain ⟨-, hslot⟩ := svcEdgeTakesAndWakes s l hf hp hw
  obtain ⟨-, hwake, -⟩ := hslot i hi
  refine ⟨_, hwake hsome hroom.ne, rfl, set_getD_self s.slots i _ _ hlen, ?_, rfl, rfl⟩
  exact (State.hostReady_iff _).mpr ⟨(State.fatal_eq_false_iff _).mpr hf, rfl⟩

/-- Settles O37: the four steps one after another; the line is below NLINE and its slot exists, so that PIN, PEND and WS hold
what was written there. -/
theorem edgeToTheTargetWakesTheWaiter : Obligations.EdgeToTheTargetWakesTheWaiter := by
  rintro s tid slot l ⟨hwf, ⟨hpin, hpend, hslots, -⟩, -⟩ hs ht hl hne hedge hroom
  have hf := s.fatal_eq_false_iff.mp (s.hostReady_iff.mp hs).1
  have hslot : slot.toNat < s.cfg.nslot := (List.getElem?_eq_some_iff.mp hl).1
  have hline := wf_lineOfSlot_lt s.cfg hwf _ l hl
  obtain ⟨t1, hpoll, hres1, hws1, hlen1, hcfg1, hf1, hpin1, hpend1, hrq1⟩ := exec_ewPoll_pending s tid slot hs ht hslot
    (hslots ▸ hslot) (mt (atTarget_iff s slot.toNat l hl).mp hne)
  have hlevel1 : t1.pinAt l = s.pinAt l := by rw [State.pinAt, State.pinAt, hpin1]
  obtain ⟨t2, hchange, hlevel2, hpend2, hcfg2, hf2, hslots2, hrq2⟩ := exec_pin_edge t1 l (s.slotAt slot.toNat).target
    (hf1.trans hf) (hcfg1 ▸ hline) (by rw [hpin1, hpin]; exact hline) (by rw [hpend1, hpend]; exact hline)
    (hlevel1 ▸ hne.symm) (hcfg1 ▸ hedge)
  have hcfg12 : t2.cfg = s.cfg := hcfg2.trans hcfg1
  have hws2 : t2.slotAt slot.toNat = { s.slotAt slot.toNat with ws := tid } := by
    rw [← hws1, State.slotAt, State.slotAt, hslots2]
  obtain ⟨t3, hservice, hrq3, hws3, hs3, hcfg3, hpin3⟩ := exec_svcEdge_waiter t2 slot.toNat l (hf2.trans (hf1.trans hf))
    hpend2 (hcfg12 ▸ hwf) (hcfg12 ▸ hl) (by rw [hslots2, hlen1, hslots]; exact hslot)
    (by rw [hws2]; exact ne_noTask_of_lt_ntask s.cfg hwf tid ht) (by rw [hrq2, hrq1, hcfg12]; exact hroom)
  have hcfg13 : t3.cfg = s.cfg := hcfg3.trans hcfg12
  have hlevel3 : t3.pinAt l = (t3.slotAt slot.toNat).target := by
    rw [hws3, hws2, State.pinAt, hpin3]
    exact hlevel2
  have hagain := exec_ewPoll_inRange t3 tid slot hs3 (hcfg13 ▸ ht) (hcfg13 ▸ hslot)
  rw [if_pos ((atTarget_iff t3 slot.toNat l (hcfg13 ▸ hl)).mpr hlevel3)] at hagain
  refine ⟨t1, t2, t3, _, hpoll, hres1, by rw [hws1], hchange, hpend2, hservice, ?_, by rw [hws3]; rfl, hagain, rfl⟩
  rw [hrq3, hrq2, hrq1, hws2]

/-! ## The shown top (R98, R157) -/

/-- Settles O30: selector 3 answers with `heap_top`, which is a member of minimal signed distance under every election. -/
theorem shownTopIsNearest : Obligations.ShownTopIsNearest := by
  refine fun s hs => ⟨fun hempty => ?_, fun hne => ?_⟩
  · exact exec_stGet_of_error s 3#8 0#8 _ hs (topReply_empty s hempty)
  · obtain ⟨e, htop⟩ := heapTop_exists s hne
    obtain ⟨hmem, hmin⟩ := heapTop_some s e htop
    exact ⟨e, hmem, hmin, exec_stGet_of_words s 3#8 0#8 _ _ hs (topReply_of_top s e htop)⟩

end Sys2Proof.Machine
end

section
/-! PROOFS. `heap_service()` inside the operations that run it: SVC_CMP, SVC_WRAP and TK_POLL in phase Init (41_ticker.md R103,
R107, R110, R111, 60_exceptions.md R172, R187). -/

namespace Sys2Proof.Machine

/-! ## How many wakes a run makes -/

/-- Elapsed entries make as many wake requests as there are identities among them. -/
theorem length_wokenIds (c : Config) (now : Word) (popped : List Entry)
    (h : ∀ e ∈ popped, elapsed c e.d now = true) : (wokenIds popped).length = popped.countP (wakes c now) := by
  rw [wokenIds, List.length_map, ← List.countP_eq_length_filter]
  exact List.countP_congr fun e he => by simp [wakes, h e he]

theorem countP_wakes_of_not_elapsed (c : Config) (now : Word) (rest : List Entry)
    (h : ∀ e ∈ rest, elapsed c e.d now = false) : rest.countP (wakes c now) = 0 :=
  List.countP_eq_zero.mpr fun e he => by simp [wakes, h e he]

/-- A run halts only where the expired entries make more wake requests than RQ has room for. -/
theorem State.ServiceHalted.overflow {s t : State} {h : List Entry} (hs : s.ServiceHalted h t) :
    s.cfg.rqCap < s.rq.length + h.countP (wakes s.cfg s.cnt) := by
  obtain ⟨popped, e, rest, hperm, hel, -, -, hid, -, hrq, hfull, -⟩ := hs
  have hpopped := length_wokenIds s.cfg s.cnt popped fun x hx => hel x (List.mem_append_left _ hx)
  have he : wakes s.cfg s.cnt e = true := by simp [wakes, hel e (by simp), hid]
  rw [hrq, List.length_append] at hfull
  rw [← hperm.countP_eq, List.countP_append, List.countP_cons_of_pos he]
  omega

/-- A run that completes where no entry reads as HALF ticks overdue has made every wake request of the expired entries. -/
theorem State.Serviced.length_rq {s t : State} {h : List Entry} (hs : s.Serviced h t)
    (hwin : ∀ e ∈ h, -(s.cfg.half : Int) < sdist s.cfg e.d s.cnt) :
    t.rq.length = s.rq.length + h.countP (wakes s.cfg s.cnt) := by
  obtain ⟨popped, rest, hperm, hel, -, -, hrest, hrq, -⟩ := hs
  rw [hrq, List.length_append, length_wokenIds s.cfg s.cnt popped hel, ← hperm.countP_eq, List.countP_append,
    countP_wakes_of_not_elapsed s.cfg s.cnt rest (hrest hwin), Nat.add_zero]

/-- `heap_service()` halts where RQ has no room for the wake requests, and no entry reads as HALF ticks overdue. -/
theorem heapService_halts (s : State) (hw : s.cfg.wf = true) (hn : s.cnt.toNat < s.cfg.mod)
    (hd : ∀ e ∈ s.heap, e.d.toNat < s.cfg.mod) (hwin : s.InWindow) (hr : s.rq.length ≤ s.cfg.rqCap)
    (hover : s.cfg.rqCap < s.rq.length + s.wakeCount) :
    ∃ t, s.heapService = .halt t ∧ s.ServiceHalted s.heap t := by
  rcases heapService_spec s hw hn hd with ⟨t, hgo, hserved, -⟩ | ⟨t, hhalt, hhalted, -⟩
  · have hlen := hserved.length_rq hwin
    have hle := heapService_rq_le s t hgo hr
    exact absurd hover (Nat.not_lt.mpr (hlen ▸ hle))
  · exact ⟨t, hhalt, hhalted⟩

/-! ## The clauses that the three forms share -/

theorem State.Serviced.perm {s t : State} {h h' : List Entry} (hs : s.Serviced h t) (hp : h.Perm h') :
    s.Serviced h' t := by
  obtain ⟨popped, rest, hperm, hel, hsorted, hbefore, hrest, hend⟩ := hs
  exact ⟨popped, rest, hperm.trans hp, hel, hsorted, hbefore, fun hwin => hrest fun e he => hwin e (hp.subset he), hend⟩

theorem State.ServiceHalted.perm {s t : State} {h h' : List Entry} (hs : s.ServiceHalted h t) (hp : h.Perm h') :
    s.ServiceHalted h' t := by
  obtain ⟨popped, e, rest, hperm, hend⟩ := hs
  exact ⟨popped, e, rest, hperm.trans hp, hend⟩

/-- The halt is in FCAUSE. -/
theorem State.ServiceHalted.fcause {s t : State} {h : List Entry} (hs : s.ServiceHalted h t) : t.fcause = 1#32 := by
  obtain ⟨_, _, _, -, -, -, -, -, -, -, -, hcause, -⟩ := hs
  exact hcause

/-- SVC_CMP, enabled, is `heap_service()` with CF cleared before it and SLEEP after it (R110). -/
theorem exec_svcCmp (s : State) (h : s.svcCmpReady = true) :
    exec .svcCmp s = .next (({ s with cf := false } : State).heapService.finish State.awake) := if_pos h

theorem exec_svcWrap (s : State) (h : s.svcWrapReady = true) :
    exec .svcWrap s = .next (({ s with wf := false } : State).heapService.finish State.awake) := if_pos h

/-- Settles O26: `heap_service()` does not read CF, so what it does after CF is cleared is what `Serviced` and `ServiceHalted`
say of the state before. -/
theorem svcCmpServesTheHeap : Obligations.SvcCmpServesTheHeap := by
  intro s hf htk hcf hcie hw hn hd
  have hexec := exec_svcCmp s (s.svcCmpReady_iff.mpr ⟨hf, htk, hcf, hcie⟩)
  rcases heapService_spec { s with cf := false } hw hn hd with ⟨t, hgo, hserved, hframe⟩ | ⟨t, hhalt, hhalted, hframe⟩
  · rw [hgo, Flow.finish_go] at hexec
    refine ⟨_, hexec, .inl ⟨hserved, ?_⟩, fun _ => ⟨?_, hserved⟩⟩
    · exact congrArg State.awake hframe
    · exact (congrArg State.fcause hframe).trans hf
  · rw [hhalt, Flow.finish_halt] at hexec
    exact ⟨t, hexec, .inr ⟨hhalted, hframe⟩, fun hroom => absurd hhalted.overflow hroom.not_gt⟩

/-- In the first half of the wrap cycle a deadline that has not elapsed lies ahead in this cycle. -/
theorem lt_of_not_elapsed (c : Config) (hm : c.mod ≤ 2 ^ 32) (d now : Word) (hn : now.toNat < c.mod)
    (hhalf : now.toNat < c.half) (h : elapsed c d now = false) : now.toNat < d.toNat := by
  rcases Nat.lt_or_ge now.toNat d.toNat with hlt | hge
  · exact hlt
  · have hsub := tSub_of_le c hm now d hn hge
    simp only [elapsed, decide_eq_false_iff_not] at h
    omega

/-- Settles O27: as for SVC_CMP; the new top has not elapsed, so early in the wrap cycle it lies above CNT. -/
theorem svcWrapServesTheHeap : Obligations.SvcWrapServesTheHeap := by
  intro s hf htk hwf hw hn hd
  have hexec := exec_svcWrap s (s.svcWrapReady_iff.mpr ⟨hf, htk, hwf⟩)
  rcases heapService_spec { s with wf := false } hw hn hd with ⟨t, hgo, hserved, hframe⟩ | ⟨t, hhalt, hhalted, hframe⟩
  · rw [hgo, Flow.finish_go] at hexec
    have hcie : s.cnt.toNat < s.cfg.half → t.cie = true := by
      obtain ⟨_, _, -, -, -, -, -, -, -, e, -, hel, -, hcie⟩ := hserved
      intro hhalf
      rw [hcie]
      exact decide_eq_true (lt_of_not_elapsed s.cfg (wf_mod_le _ hw) e.d s.cnt hn hhalf hel)
    refine ⟨_, hexec, .inl ⟨hserved, congrArg State.awake hframe, hcie⟩, fun _ => ⟨?_, hserved⟩⟩
    exact (congrArg State.fcause hframe).trans hf
  · rw [hhalt, Flow.finish_halt] at hexec
    exact ⟨t, hexec, .inr ⟨hhalted, hframe⟩, fun hroom => absurd hhalted.overflow hroom.not_gt⟩

/-! ## TK_POLL in phase Init -/

theorem exec_tkPoll_heapFull (s : State) (tid : Byte) (h : s.hostReady = true) (ht : tid.toNat < s.cfg.ntask)
    (ha : s.arg.toNat < s.cfg.mod) (htk : s.tken = true) (hfull : s.heap.length = s.cfg.heapCap) :
    exec (.tkPoll tid .init) s = .next (s.raiseFatal .heapFull (tid.zeroExtend 32)) := by
  rw [exec_tkPoll_body s tid .init h ht ha htk]
  simp [tkPollBody, State.heapFull, hfull]

theorem exec_tkPoll_init (s : State) (tid : Byte) (h : s.hostReady = true) (ht : tid.toNat < s.cfg.ntask)
    (ha : s.arg.toNat < s.cfg.mod) (htk : s.tken = true) (hroom : s.heap.length ≠ s.cfg.heapCap) :
    exec (.tkPoll tid .init) s =
      .next ((s.heapPush (Entry.mk s.arg tid)).heapService.finish (fun t => t.done 2#32 0#32)) := by
  rw [exec_tkPoll_body s tid .init h ht ha htk]
  simp [tkPollBody, State.heapFull, hroom, instantOf_self s.cfg s.arg ha, pollWord]

theorem heapPush_perm (s : State) (e : Entry) : (s.heapPush e).heap.Perm (e :: s.heap) :=
  heapInsert_perm s.cfg s.cnt s.heap e

theorem heapPush_wakeCount (s : State) (e : Entry) :
    (s.heapPush e).wakeCount = (e :: s.heap).countP (wakes s.cfg s.cnt) := (heapPush_perm s e).countP_eq _

theorem heapPush_d_lt (s : State) (e : Entry) (he : e.d.toNat < s.cfg.mod) (hd : ∀ x ∈ s.heap, x.d.toNat < s.cfg.mod) :
    ∀ x ∈ (s.heapPush e).heap, x.d.toNat < (s.heapPush e).cfg.mod := by
  intro x hx
  rcases (mem_heapInsert s.cfg s.cnt s.heap e x).mp hx with rfl | hx
  · exact he
  · exact hd x hx

/-- `heap_service()` on the pushed heap, in the words of `Serviced` and `ServiceHalted` for the state before the push. -/
theorem heapPush_heapService_spec (s : State) (e : Entry) (hw : s.cfg.wf = true) (hn : s.cnt.toNat < s.cfg.mod)
    (hd : ∀ x ∈ s.heap, x.d.toNat < s.cfg.mod) (he : e.d.toNat < s.cfg.mod) :
    (∃ t, (s.heapPush e).heapService = .go t ∧ s.Serviced (e :: s.heap) t ∧
      t = { s with heap := t.heap, arrangement := t.arrangement, rq := t.rq, cmp := t.cmp, cie := t.cie }) ∨
    (∃ t, (s.heapPush e).heapService = .halt t ∧ s.ServiceHalted (e :: s.heap) t ∧
      t = { s with heap := t.heap, arrangement := t.arrangement, rq := t.rq, fcause := t.fcause, finfo := t.finfo }) := by
  have hperm := heapPush_perm s e
  rcases heapService_spec (s.heapPush e) hw hn (heapPush_d_lt s e he hd) with
    ⟨t, hgo, hserved, hframe⟩ | ⟨t, hhalt, hhalted, hframe⟩
  · exact .inl ⟨t, hgo, State.Serviced.perm (s := s) hserved hperm, hframe⟩
  · exact .inr ⟨t, hhalt, State.ServiceHalted.perm (s := s) hhalted hperm, hframe⟩

/-- Settles O22: a full heap is refused before the push; otherwise the run is that of `heap_service()` on the pushed heap, whose
entries are the old ones and the new one. -/
theorem tkPollInitRegistersTheDeadline : Obligations.TkPollInitRegistersTheDeadline := by
  refine fun s tid hs hw hn hd ht ha htk => ⟨exec_tkPoll_heapFull s tid hs ht ha htk, fun hroom => ?_⟩
  have hf := s.fatal_eq_false_iff.mp (s.hostReady_iff.mp hs).1
  have hexec := exec_tkPoll_init s tid hs ht ha htk hroom
  rcases heapPush_heapService_spec s (Entry.mk s.arg tid) hw hn hd ha with
    ⟨t, hgo, hserved, hframe⟩ | ⟨t, hhalt, hhalted, hframe⟩
  · rw [hgo, Flow.finish_go] at hexec
    refine ⟨_, hexec, .inl ⟨hserved, ?_⟩, fun _ => ⟨?_, hserved⟩⟩
    · exact congrArg (fun u => u.done 2#32 0#32) hframe
    · exact (congrArg State.fcause hframe).trans hf
  · rw [hhalt, Flow.finish_halt] at hexec
    exact ⟨t, hexec, .inr ⟨hhalted, hframe⟩, fun hfits => absurd hhalted.overflow hfits.not_gt⟩

/-! ## The overflow of RQ -/

/-- Settles O28: each form runs `heap_service()` on a heap whose expired entries make more wake requests than RQ has room
for. -/
theorem heapServiceHaltsWhenTheQueueOverflows : Obligations.HeapServiceHaltsWhenTheQueueOverflows := by
  refine fun s hf htk hw hn hd hwin hr => ⟨fun hover => ⟨fun hcf hcie => ?_, fun hwf => ?_⟩, ?_⟩
  · obtain ⟨t, hhalt, hhalted⟩ := heapService_halts { s with cf := false } hw hn hd hwin hr hover
    refine ⟨t, ?_, hhalted⟩
    rw [exec_svcCmp s (s.svcCmpReady_iff.mpr ⟨hf, htk, hcf, hcie⟩), hhalt, Flow.finish_halt]
  · obtain ⟨t, hhalt, hhalted⟩ := heapService_halts { s with wf := false } hw hn hd hwin hr hover
    refine ⟨t, ?_, hhalted⟩
    rw [exec_svcWrap s (s.svcWrapReady_iff.mpr ⟨hf, htk, hwf⟩), hhalt, Flow.finish_halt]
  · intro tid hsleep ht ha hroom hwinNew hover
    have hs : s.hostReady = true := s.hostReady_iff.mpr ⟨s.fatal_eq_false_iff.mpr hf, hsleep⟩
    have hperm := heapPush_perm s (Entry.mk s.arg tid)
    have hwin' : (s.heapPush (Entry.mk s.arg tid)).InWindow := by
      intro x hx
      rcases (mem_heapInsert s.cfg s.cnt s.heap _ x).mp hx with rfl | hx
      · exact hwinNew
      · exact hwin x hx
    obtain ⟨t, hhalt, hhalted⟩ := heapService_halts (s.heapPush (Entry.mk s.arg tid)) hw hn
      (heapPush_d_lt s _ ha hd) hwin' hr (by rw [heapPush_wakeCount]; exact hover)
    refine ⟨t, ?_, State.ServiceHalted.perm (s := s) hhalted hperm⟩
    rw [exec_tkPoll_init s tid hs ht ha htk hroom, hhalt, Flow.finish_halt]

/-! ## What the four forms can do, said once for every state -/

/-- TK_POLL in phase Init writes results or a cause alone, or pushes its entry and runs `heap_service()` (R107). -/
theorem exec_tkPoll_init_cases {s t : State} {tid : Byte} (h : exec (.tkPoll tid .init) s = .next t) :
    t = s.withEnd t ∨ (s.hostReady = true ∧ validTid s.cfg tid = true ∧ s.tken = true ∧
      s.heap.length ≠ s.cfg.heapCap ∧
      t = (s.heapPush (Entry.mk (instantOf s.cfg s.arg) tid)).heapService.finish
        (fun u => u.done (pollWord false true) 0#32)) := by
  rcases State.when_cases h with ⟨-, rfl⟩ | ⟨hs, rfl⟩
  · exact .inl rfl
  · split
    · exact .inl rfl
    · rename_i hrange
      simp only [Bool.not_eq_true, Bool.not_eq_false', Bool.and_eq_true] at hrange
      split
      · exact .inl rfl
      · rename_i htk
        unfold tkPollBody
        dsimp only
        split
        · exact .inl rfl
        · rename_i hfull
          exact .inr ⟨hs, hrange.1, by simpa using htk, by simpa [State.heapFull] using hfull, rfl⟩

theorem exec_tkInit_cases {s t : State} (h : exec .tkInit s = .next t) :
    t = s.withEnd t ∨ (s.hostReady = true ∧ s.tken = false ∧
      t = s.tickerCleared.heapService.finish (fun u => u.done 0#32 0#32)) := by
  rcases State.when_cases h with ⟨-, rfl⟩ | ⟨hs, rfl⟩
  · exact .inl rfl
  · split
    · exact .inl rfl
    · rename_i htk
      exact .inr ⟨hs, Bool.eq_false_iff.mpr htk, rfl⟩

theorem exec_svcCmp_cases {s t : State} (h : exec .svcCmp s = .next t) :
    t = s ∨ (s.svcCmpReady = true ∧ t = ({ s with cf := false } : State).heapService.finish State.awake) := by
  rcases State.when_cases h with ⟨-, rfl⟩ | ⟨hs, rfl⟩
  · exact .inl rfl
  · exact .inr ⟨hs, rfl⟩

theorem exec_svcWrap_cases {s t : State} (h : exec .svcWrap s = .next t) :
    t = s ∨ (s.svcWrapReady = true ∧ t = ({ s with wf := false } : State).heapService.finish State.awake) := by
  rcases State.when_cases h with ⟨-, rfl⟩ | ⟨hs, rfl⟩
  · exact .inl rfl
  · exact .inr ⟨hs, rfl⟩

end Sys2Proof.Machine
end

section
/-! PROOFS. Time: runs of TICK (41_ticker.md R109), what a deadline-wait answers after them (R95, R107), and the window premise
(10_state.md R30). -/

namespace Sys2Proof.Machine

/-! ## Tick values as residues -/

/-- `a -t b` is the residue of the difference of any two numbers that a and b are the residues of (R13, R91). -/
theorem tSub_toNat_of_emod (c : Config) (hm : c.mod ≤ 2 ^ 32) (a b : Word) (x y : Int)
    (ha : (a.toNat : Int) = x % (c.mod : Int)) (hb : (b.toNat : Int) = y % (c.mod : Int)) :
    ((tSub c a b).toNat : Int) = (x - y) % (c.mod : Int) := by
  rw [tSub_toNat c hm, ha, hb, ← Int.sub_emod]

/-- The signed distance is the difference of any two numbers that the tick values are the residues of, where that difference is
in the range of a signed TICK_W-bit number (R94). -/
theorem sdist_eq_sub_of_emod (c : Config) (hw : c.wf = true) (d now : Word) (x y : Int)
    (hd : (d.toNat : Int) = x % (c.mod : Int)) (hn : (now.toNat : Int) = y % (c.mod : Int))
    (hlo : -(c.half : Int) ≤ x - y) (hhi : x - y < (c.half : Int)) : sdist c d now = x - y := by
  have hsub := tSub_toNat_of_emod c (wf_mod_le c hw) d now x y hd hn
  have htwo := wf_mod_eq c hw
  rcases lt_or_ge (x - y) 0 with hneg | hpos
  · rw [← Int.add_emod_right, Int.emod_eq_of_lt (by omega) (by omega)] at hsub
    rw [sdist, if_pos (by omega)]
    omega
  · rw [Int.emod_eq_of_lt hpos (by omega)] at hsub
    rw [sdist, if_neg (by omega), hsub]

/-- A deadline duration ahead of base has elapsed k ticks after base exactly when k has reached the duration (R95). -/
theorem elapsed_after (c : Config) (hw : c.wf = true) (d now : Word) (base duration k : Nat)
    (hd : d.toNat = (base + duration) % c.mod) (hn : now.toNat = (base + k) % c.mod) (hdur : duration ≤ c.maxDur)
    (hk : k < duration + c.half) : elapsed c d now = true ↔ duration ≤ k := by
  have hpos := half_pos c
  have hmod := mod_pos c
  rw [Config.maxDur] at hdur
  have hdist : sdist c d now = ((base + duration : Nat) : Int) - ((base + k : Nat) : Int) :=
    sdist_eq_sub_of_emod c hw d now _ _ (by rw [hd]; rfl) (by rw [hn]; rfl) (by omega) (by omega)
  rw [elapsed_iff c hw d now (hd ▸ Nat.mod_lt _ hmod) (hn ▸ Nat.mod_lt _ hmod), hdist]
  omega

/-! ## Runs of TICK -/

theorem ticks_zero (s : State) : ticks 0 s = some s := rfl

theorem State.tickReady_of_not_fatal {s : State} (h : s.fatal = false) : s.tickReady = true :=
  s.tickReady_iff.mpr (s.fatal_eq_false_iff.mp h)

/-- The state after one TICK outside the halt (R109). -/
def State.ticked (s : State) : State :=
  { s with cnt := s.nextCnt, cf := cfAfterTick s s.nextCnt, wf := wfAfterTick s s.nextCnt }

theorem exec_tick_of_not_fatal (s : State) (h : s.fatal = false) : exec .tick s = .next s.ticked :=
  exec_tick s (State.tickReady_of_not_fatal h)

theorem ticks_succ (n : Nat) (s : State) (h : s.fatal = false) : ticks (n + 1) s = ticks n s.ticked := by
  rw [ticks, List.replicate_succ, execAll_cons_of_next (exec_tick_of_not_fatal s h), ticks]

/-- CNT after one tick: one more, or 0 where the counter wraps (R109). -/
theorem nextCnt_cases (s : State) (hw : s.cfg.wf = true) (hn : s.cnt.toNat < s.cfg.mod) :
    (s.cnt.toNat + 1 < s.cfg.mod ∧ s.nextCnt.toNat = s.cnt.toNat + 1) ∨
      (s.cnt.toNat + 1 = s.cfg.mod ∧ s.nextCnt.toNat = 0) := by
  rw [nextCnt_toNat s hw]
  rcases Nat.lt_or_ge (s.cnt.toNat + 1) s.cfg.mod with hlt | hge
  · exact .inl ⟨hlt, Nat.mod_eq_of_lt hlt⟩
  · have heq : s.cnt.toNat + 1 = s.cfg.mod := by omega
    exact .inr ⟨heq, by rw [heq, Nat.mod_self]⟩

theorem nextCnt_lt (s : State) (hw : s.cfg.wf = true) : s.nextCnt.toNat < s.cfg.mod := by
  rw [nextCnt_toNat s hw]
  exact Nat.mod_lt _ (mod_pos _)

theorem ticked_cf_of_cf (s : State) (h : s.cf = true) : s.ticked.cf = true := by
  simp [State.ticked, cfAfterTick, h]

theorem ticked_wf_of_wf (s : State) (h : s.wf = true) : s.ticked.wf = true := by
  simp [State.ticked, wfAfterTick, h]

/-- A match with CMP sets CF. -/
theorem ticked_cf_of_match (s : State) (h : s.nextCnt.toNat = s.cmp.toNat) : s.ticked.cf = true := by
  simp [State.ticked, cfAfterTick, BitVec.eq_of_toNat_eq h]

/-- A wrap sets WF. -/
theorem ticked_wf_of_wrap (s : State) (h : s.nextCnt.toNat = 0) : s.ticked.wf = true := by
  have hzero : s.nextCnt = 0#32 := BitVec.eq_of_toNat_eq h
  simp [State.ticked, wfAfterTick, hzero]

/-- What n ticks do, by induction on n with the first tick in front: a later tick keeps what an earlier one set. -/
theorem ticks_spec (n : Nat) (s : State) (hf : s.fatal = false) (hw : s.cfg.wf = true) (hn : s.cnt.toNat < s.cfg.mod) :
    ∃ u, ticks n s = some u ∧ u.cnt.toNat = (s.cnt.toNat + n) % s.cfg.mod ∧
      u = { s with cnt := u.cnt, cf := u.cf, wf := u.wf } ∧ (s.cf = true → u.cf = true) ∧ (s.wf = true → u.wf = true) ∧
      (s.cmp.toNat = (s.cnt.toNat + n) % s.cfg.mod → 0 < n → u.cf = true) ∧
      (s.cfg.mod ≤ s.cnt.toNat + n → u.wf = true) := by
  induction n generalizing s with
  | zero =>
    refine ⟨s, rfl, (Nat.mod_eq_of_lt hn).symm, rfl, id, id, fun _ hpos => absurd hpos (Nat.lt_irrefl 0), fun hge => ?_⟩
    exact absurd hn (Nat.not_lt.mpr hge)
  | succ n ih =>
    obtain ⟨u, hrun, hcnt, hframe, hcf, hwf, hmatch, hwrap⟩ := ih s.ticked hf hw (nextCnt_lt s hw)
    have hstart : s.ticked.cnt.toNat = (s.cnt.toNat + 1) % s.cfg.mod := nextCnt_toNat s hw
    have hsum : (s.ticked.cnt.toNat + n) % s.cfg.mod = (s.cnt.toNat + (n + 1)) % s.cfg.mod := by
      rw [hstart, Nat.mod_add_mod, Nat.add_assoc, Nat.add_comm 1 n]
    refine ⟨u, (ticks_succ n s hf).trans hrun, hcnt.trans hsum, hframe, fun h => hcf (ticked_cf_of_cf s h),
      fun h => hwf (ticked_wf_of_wf s h), fun heq _ => ?_, fun hge => ?_⟩
    · rcases Nat.eq_zero_or_pos n with rfl | hpos
      · exact hcf (ticked_cf_of_match s (hstart.trans heq.symm))
      · exact hmatch (heq.trans hsum.symm) hpos
    · rcases nextCnt_cases s hw hn with ⟨-, hnext⟩ | ⟨-, hnext⟩
      · refine hwrap ?_
        have hnext' : s.ticked.cnt.toNat = s.cnt.toNat + 1 := hnext
        change s.cfg.mod ≤ s.ticked.cnt.toNat + n
        omega
      · exact hwf (ticked_wf_of_wrap s hnext)

/-- Settles O25. -/
theorem ticksAddUp : Obligations.TicksAddUp :=
  fun n s hf hw hn => ticks_spec n s hf hw hn

/-- Settles O23: the end time is the duration ahead of CNT, and k ticks bring CNT k ahead. -/
theorem deadlineWaitIsReadyExactlyFromItsEndTime : Obligations.DeadlineWaitIsReadyExactlyFromItsEndTime := by
  intro s u tid k hs hw hn htk ht hdur hk hrun
  obtain ⟨u', hrun', hcnt, hframe, -⟩ := ticks_spec k s (s.hostReady_iff.mp hs).1 hw hn
  obtain rfl : u' = u := Option.some_inj.mp (hrun'.symm.trans hrun)
  have hend := tAdd_toNat s.cfg (wf_mod_le _ hw) s.cnt s.arg
  have hcfg : u'.cfg = s.cfg := (congrArg State.cfg hframe :)
  have hready : u'.hostReady = true := (congrArg State.hostReady hframe).trans hs
  have htken : u'.tken = true := (congrArg State.tken hframe).trans htk
  have hpoll := exec_tkPoll_wait { u' with arg := tAdd s.cfg s.cnt s.arg } tid hready (hcfg ▸ ht)
    (hcfg ▸ tAdd_lt s.cfg (wf_mod_le _ hw) _ _) htken
  refine ⟨_, _, exec_tkStart_inRange s hs hdur, hpoll, ?_, rfl, rfl⟩
  simp only [State.done_res0, hcfg,
    elapsed_after s.cfg hw _ u'.cnt s.cnt.toNat s.arg.toNat k hend hcnt hdur hk]

/-! ## Bounded service of a covered deadline (R115, R209) -/

/-- Settles O55: nothing to wait for where a service is due; else the ticks up to the match with CMP, which stands at the
deadline, or up to the wrap, which lies before it. -/
theorem timerServiceIsEnabledByTheNearestDeadline : Obligations.TimerServiceIsEnabledByTheNearestDeadline := by
  intro s e hinv htk hfatal htop hcov
  obtain ⟨hw, -, ⟨hn, -, -, -⟩, -, hentries, -⟩ := hinv
  have hm := wf_mod_le _ hw
  have hed : e.d.toNat < s.cfg.mod := (hentries e (heapTop_some s e htop).1).1
  have hf := s.fatal_eq_false_iff.mp hfatal
  rcases hcov with hwf | ⟨hcie, hcf⟩ | ⟨hcie, hcmp, hlt⟩ | ⟨-, hlt⟩
  · exact ⟨0, s, Nat.zero_le _, ticks_zero s, .inr (s.svcWrapReady_iff.mpr ⟨hf, htk, hwf⟩)⟩
  · exact ⟨0, s, Nat.zero_le _, ticks_zero s, .inl (s.svcCmpReady_iff.mpr ⟨hf, htk, hcf, hcie⟩)⟩
  · obtain ⟨u, hrun, -, hframe, -, -, hmatch, -⟩ := ticks_spec (e.d.toNat - s.cnt.toNat) s hfatal hw hn
    have hsum : s.cnt.toNat + (e.d.toNat - s.cnt.toNat) = e.d.toNat := by omega
    refine ⟨_, u, (tSub_of_le s.cfg hm e.d s.cnt hed hlt.le).ge, hrun, .inl ?_⟩
    refine u.svcCmpReady_iff.mpr ⟨(congrArg State.fcause hframe).trans hf, (congrArg State.tken hframe).trans htk,
      hmatch ?_ (by omega), (congrArg State.cie hframe).trans hcie⟩
    rw [hsum, Nat.mod_eq_of_lt hed, hcmp]
  · obtain ⟨u, hrun, -, hframe, -, -, -, hwrap⟩ := ticks_spec (s.cfg.mod - s.cnt.toNat) s hfatal hw hn
    refine ⟨_, u, ?_, hrun, .inr ?_⟩
    · rw [tSub_of_lt s.cfg hm e.d s.cnt hn hlt]
      omega
    · exact u.svcWrapReady_iff.mpr ⟨(congrArg State.fcause hframe).trans hf, (congrArg State.tken hframe).trans htk,
        hwrap (by omega)⟩

end Sys2Proof.Machine
end

section
/-! PROOFS. The window premise: true deadlines, the order of H, and which instructions keep the premise (10_state.md R30,
41_ticker.md R94, R101, R106). -/

namespace Sys2Proof.Machine

/-! ## A true deadline in the window -/

theorem dueInWindow_lt (c : Config) (time : Nat) (d : Word) (td : Int) (h : dueInWindow c time d td) :
    d.toNat < c.mod := by
  have hlt := Int.emod_lt_of_pos ((c.cntReset : Int) + td) (Int.natCast_pos.mpr (mod_pos c))
  rw [← h.1] at hlt
  exact Int.ofNat_lt.mp hlt

/-- The signed distance of a deadline in the window is how far ahead its true deadline is (R30). -/
theorem sdist_of_dueInWindow (c : Config) (hw : c.wf = true) (now : Word) (time : Nat) (d : Word) (td : Int)
    (hn : now.toNat = (c.cntReset + time) % c.mod) (h : dueInWindow c time d td) : sdist c d now = td - time := by
  obtain ⟨hd, hlo, hhi⟩ := h
  have hdist := sdist_eq_sub_of_emod c hw d now ((c.cntReset : Int) + td) ((c.cntReset + time : Nat) : Int) hd
    (by rw [hn]; rfl) (by omega) (by omega)
  omega

/-- A tick value v ahead of CNT stands for the instant v ahead of T. -/
theorem tAdd_toNat_of_time (c : Config) (hw : c.wf = true) (now v : Word) (time : Nat)
    (hn : now.toNat = (c.cntReset + time) % c.mod) :
    ((tAdd c now v).toNat : Int) = ((c.cntReset : Int) + ((time + v.toNat : Nat) : Int)) % (c.mod : Int) := by
  rw [tAdd_toNat c (wf_mod_le c hw), hn, Nat.mod_add_mod, Nat.add_assoc]
  rfl

theorem wf_heartbeat_le (c : Config) (h : c.wf = true) : c.heartbeat ≤ c.maxDur := by
  simp only [Config.wf, Config.heartbeatOk, Bool.and_eq_true, decide_eq_true_eq] at h
  obtain ⟨⟨-, -, hmax⟩, -⟩ := h
  exact hmax

/-- A heartbeat is due HEARTBEAT_TICKS after its insertion, and stands inside the window (R11, R101). -/
theorem heartbeatEntry_dueInWindow (s : State) (hw : s.cfg.wf = true) (time : Nat)
    (hn : s.cnt.toNat = (s.cfg.cntReset + time) % s.cfg.mod) :
    dueInWindow s.cfg time s.heartbeatEntry.d ((time : Int) + (s.cfg.heartbeat : Int)) := by
  have hd := tAdd_toNat_of_time s.cfg hw s.cnt (heartbeatTicks s.cfg) time hn
  have hle := wf_heartbeat_le s.cfg hw
  have hpos := half_pos s.cfg
  rw [heartbeatTicks_toNat s.cfg hw, Nat.cast_add] at hd
  rw [Config.maxDur] at hle
  exact ⟨hd, by omega, by omega⟩

/-! ## The entries that an instruction can leave in H -/

/-- `heap_service()` leaves entries of H, or the heartbeat entry (R101, R103). -/
theorem mem_heap_of_heapService (s : State) (k : State → State) (hk : ∀ u, (k u).heap = u.heap) (e : Entry)
    (he : e ∈ (s.heapService.finish k).heap) : e ∈ s.heap ∨ e = s.heartbeatEntry := by
  rcases heapService_cases s with ⟨popped, h', hgo, hP, -⟩ | ⟨popped, x, h', hhalt, hP, -⟩
  · obtain ⟨h, _, _, _, harm, hne, hempty⟩ := insertHeartbeat_arm (s.served popped h')
    rw [hgo, Flow.finish_go, hk, harm] at he
    change e ∈ h at he
    by_cases h0 : h' = []
    · rw [hempty h0, List.mem_singleton] at he
      exact .inr he
    · rw [(hne h0).1] at he
      exact .inl (hP.perm.subset (List.mem_append_right _ he))
  · rw [hhalt] at he
    exact .inl (hP.perm.subset (List.mem_append_right _ he))

/-- After an instruction H holds old entries, the entry that TK_POLL in phase Init pushes, and the heartbeat of this tick. -/
theorem mem_heap_of_exec {i : Instr} {s t : State} (h : exec i s = .next t) (e : Entry) (he : e ∈ t.heap) :
    e ∈ s.heap ∨ pushedBy i s = some e ∨ e = s.heartbeatEntry := by
  by_cases hinit : i = .tkInit
  · subst hinit
    rcases exec_tkInit_cases h with hend | ⟨-, -, rfl⟩
    · rw [hend] at he
      exact .inl he
    · exact (mem_heap_of_heapService s.tickerCleared _ (fun _ => rfl) e he).elim nofun fun h => .inr (.inr h)
  by_cases hcmp : i = .svcCmp
  · subst hcmp
    rcases exec_svcCmp_cases h with rfl | ⟨-, rfl⟩
    · exact .inl he
    · exact (mem_heap_of_heapService { s with cf := false } State.awake (fun _ => rfl) e he).imp id .inr
  by_cases hwrap : i = .svcWrap
  · subst hwrap
    rcases exec_svcWrap_cases h with rfl | ⟨-, rfl⟩
    · exact .inl he
    · exact (mem_heap_of_heapService { s with wf := false } State.awake (fun _ => rfl) e he).imp id .inr
  by_cases hpoll : ∃ tid, i = .tkPoll tid .init
  · obtain ⟨tid, rfl⟩ := hpoll
    rcases exec_tkPoll_init_cases h with hend | ⟨-, -, -, -, rfl⟩
    · rw [hend] at he
      exact .inl he
    · rcases mem_heap_of_heapService (s.heapPush (Entry.mk (instantOf s.cfg s.arg) tid))
        (fun u => u.done (pollWord false true) 0#32) (fun _ => rfl) e he with hold | hbeat
      · rcases (mem_heapInsert s.cfg s.cnt s.heap _ e).mp hold with rfl | hmem
        · exact .inr (.inl rfl)
        · exact .inl hmem
      · exact .inr (.inr hbeat)
  · obtain ⟨-, -, hheap, -⟩ := written_heap s i t hinit (fun tid hi => hpoll ⟨tid, hi⟩) hcmp hwrap
    rw [exec_written h, hheap] at he
    exact .inl he

/-! ## The premise over one instruction -/

theorem Timed.next_time_of_ne_tick (x : Timed) (i : Instr) (td : Int) (t : State) (hi : i ≠ .tick) :
    (x.next i td t).time = x.time := by
  simp [Timed.next, hi]

/-- Every instruction but TICK keeps the window premise, the true deadline of a pushed entry being in the window (R30). -/
theorem Timed.WindowPremise.next_of_ne_tick {x : Timed} (hx : x.WindowPremise) (hw : x.block.cfg.wf = true) (i : Instr)
    (td : Int) (t : State) (hi : i ≠ .tick) (h : exec i x.block = .next t)
    (htd : ∀ e, pushedBy i x.block = some e → dueInWindow x.block.cfg x.time e.d td) :
    (x.next i td t).WindowPremise := by
  obtain ⟨hcnt, hdue⟩ := hx
  have hcfg : t.cfg = x.block.cfg := exec_cfg h
  rw [Timed.WindowPremise, x.next_time_of_ne_tick i td t hi]
  refine ⟨?_, fun e he => ?_⟩
  · change t.cnt.toNat = (t.cfg.cntReset + x.time) % t.cfg.mod
    rw [hcfg, exec_cnt_of_ne_tick i _ t hi h, hcnt]
  · change dueInWindow t.cfg x.time e.d (if pushedBy i x.block = some e then td
      else if e ∈ x.block.heap then x.due e else (x.time : Int) + (x.block.cfg.heartbeat : Int))
    rw [hcfg]
    split
    · exact htd e ‹_›
    · split
      · exact hdue e ‹_›
      · rcases mem_heap_of_exec h e he with hmem | hpushed | rfl
        · exact absurd hmem ‹_›
        · exact absurd hpushed ‹_›
        · exact heartbeatEntry_dueInWindow x.block hw x.time hcnt

/-- TICK keeps the window premise exactly where no entry is HALF ticks overdue before it: T goes one up and no Td moves. -/
theorem Timed.WindowPremise.next_tick_iff {x : Timed} (hx : x.WindowPremise) (hw : x.block.cfg.wf = true) (td : Int)
    (hf : x.block.fatal = false) : (x.next .tick td x.block.ticked).WindowPremise ↔ x.block.InWindow := by
  obtain ⟨hcnt, hdue⟩ := hx
  have htime : (x.next .tick td x.block.ticked).time = x.time + 1 := by
    simp [Timed.next, State.tickReady_of_not_fatal hf]
  have hkeep : ∀ e ∈ x.block.heap, (x.next .tick td x.block.ticked).due e = x.due e := fun e he => by
    simp [Timed.next, pushedBy, he]
  have hnext : x.block.nextCnt.toNat = (x.block.cfg.cntReset + (x.time + 1)) % x.block.cfg.mod := by
    rw [nextCnt_toNat _ hw, hcnt, Nat.mod_add_mod, Nat.add_assoc]
  have hdist : ∀ e ∈ x.block.heap, sdist x.block.cfg e.d x.block.cnt = x.due e - x.time := fun e he =>
    sdist_of_dueInWindow _ hw _ _ _ _ hcnt (hdue e he)
  rw [Timed.WindowPremise, htime]
  constructor
  · rintro ⟨-, hafter⟩ e he
    obtain ⟨-, hlo, -⟩ := hafter e he
    rw [hkeep e he] at hlo
    change -(x.block.cfg.half : Int) ≤ _ at hlo
    rw [hdist e he]
    omega
  · refine fun hwin => ⟨hnext, fun e he => ?_⟩
    obtain ⟨hd, -, hhi⟩ := hdue e he
    have hlo := hwin e he
    rw [hdist e he] at hlo
    rw [hkeep e he]
    change dueInWindow x.block.cfg (x.time + 1) e.d (x.due e)
    exact ⟨hd, by omega, by omega⟩

theorem Timed.start_windowPremise (c : Config) (hw : c.wf = true) : (Timed.start c).WindowPremise := by
  refine ⟨?_, nofun⟩
  change (BitVec.ofNat 32 c.cntReset).toNat = (c.cntReset + 0) % c.mod
  have hlt := wf_cntReset_lt c hw
  rw [Nat.add_zero, Nat.mod_eq_of_lt hlt, BitVec.toNat_ofNat, Nat.mod_eq_of_lt (hlt.trans_le (wf_mod_le c hw))]

/-- The end time of TK_START stands for T0 + dur until it is more than HALF ticks old (R30, R106). -/
theorem endTime_dueInWindow (s : State) (hw : s.cfg.wf = true) (time later : Nat)
    (hn : s.cnt.toNat = (s.cfg.cntReset + time) % s.cfg.mod) (hdur : s.arg.toNat ≤ s.cfg.maxDur) (hle : time ≤ later)
    (hlater : later ≤ time + s.arg.toNat + s.cfg.half) :
    dueInWindow s.cfg later (tAdd s.cfg s.cnt s.arg) (time + s.arg.toNat : Nat) := by
  have hpos := half_pos s.cfg
  rw [Config.maxDur] at hdur
  exact ⟨tAdd_toNat_of_time s.cfg hw s.cnt s.arg time hn, by omega, by omega⟩

theorem pushedBy_eq_some (i : Instr) (s : State) (e : Entry) (h : pushedBy i s = some e) :
    ∃ tid, i = .tkPoll tid .init ∧ e.d = instantOf s.cfg s.arg := by
  cases i with
  | tkPoll tid ph =>
    cases ph with
    | init => cases h; exact ⟨tid, rfl, rfl⟩
    | wait => cases h
  | _ => cases h

/-- Settles O29: under the premise a signed distance is Td - T, and the rest reads off that: the order, the sign, and what a
TICK does to both. -/
theorem windowPremiseGivesTrueDeadlineOrder : Obligations.WindowPremiseGivesTrueDeadlineOrder := by
  refine ⟨Timed.start_windowPremise, fun x hw hx => ?_, fun s t hw hn hd hwin hf h => ?_⟩
  · obtain ⟨hcnt, hdue⟩ := id hx
    have hlt : x.block.cnt.toNat < x.block.cfg.mod := hcnt ▸ Nat.mod_lt _ (mod_pos _)
    have hdist : ∀ e ∈ x.block.heap, sdist x.block.cfg e.d x.block.cnt = x.due e - x.time := fun e he =>
      sdist_of_dueInWindow _ hw _ _ _ _ hcnt (hdue e he)
    refine ⟨fun e he => ⟨hdist e he, fun hne => ?_⟩, fun a ha b hb => ?_, fun hs hdur => ?_, fun i td t hi h htd => ?_,
      fun td t hf h => ?_⟩
    · rw [elapsed_iff _ hw _ _ (dueInWindow_lt _ _ _ _ (hdue e he)) hlt, hdist e he]
      omega
    · rw [hdist a ha, hdist b hb]
      omega
    · exact ⟨_, exec_tkStart_inRange _ hs hdur, fun later => endTime_dueInWindow x.block hw x.time later hcnt hdur⟩
    · refine hx.next_of_ne_tick hw i td t hi h fun e he => ?_
      obtain ⟨tid, hpoll, hed⟩ := pushedBy_eq_some i x.block e he
      exact hed ▸ htd tid hpoll
    · cases (exec_tick_of_not_fatal x.block hf).symm.trans h
      exact hx.next_tick_iff hw td hf
  · cases (exec_tick_of_not_fatal s hf).symm.trans h
    have hdist : ∀ e ∈ s.heap, sdist s.cfg e.d s.nextCnt = sdist s.cfg e.d s.cnt - 1 := fun e he =>
      sdist_tick s.cfg hw e.d s.cnt (hd e he) hn (hwin e he)
    refine ⟨rfl, hdist, fun a ha b hb => ?_⟩
    change sdist s.cfg a.d s.nextCnt < sdist s.cfg b.d s.nextCnt ↔ _
    rw [hdist a ha, hdist b hb]
    omega

end Sys2Proof.Machine
end

section
/-! PROOFS. The invariant of the block and the coverage of the nearest deadline: they hold after reset, and every step keeps
them (10_state.md R17 to R43, 41_ticker.md R102, R115, 44_executor.md R146). -/

namespace Sys2Proof.Machine

/-! ## The invariant by units -/

/-- What the invariant says of CNT, CMP and H taken alone (10_state.md R17, R18, R27, R28, R29 (a)). -/
structure State.HeapOk (s : State) : Prop where
  cnt_lt : s.cnt.toNat < s.cfg.mod
  cmp_lt : s.cmp.toNat < s.cfg.mod
  heap_le : s.heap.length ≤ s.cfg.heapCap
  entries : s.EntriesOk
  heartbeats_le : s.heartbeats ≤ 1

/-- The invariant of the tick unit and H. -/
structure State.TimerOk (s : State) : Prop extends State.HeapOk s where
  heapLive : s.HeapLive
  compareLive : s.CompareLive

/-- The invariant of the edge unit. -/
structure State.EdgeOk (s : State) : Prop where
  pin_length : s.pin.length = s.cfg.nline
  pend_length : s.pend.length = s.cfg.nline
  slots_length : s.slots.length = s.cfg.nslot
  waiters : ∀ t ∈ s.slots.map Slot.ws, waiterOk s.cfg t

/-- The invariant of the mailboxes. -/
structure State.MboxOk (s : State) : Prop where
  length : s.mboxes.length = s.cfg.nmbox
  wakers : ∀ t ∈ s.mboxes.map Mailbox.mbw, waiterOk s.cfg t

/-- The invariant of RQ and SLEEP. -/
structure State.QueueOk (s : State) : Prop where
  rq_le : s.rq.length ≤ s.cfg.rqCap
  sleepOk : s.SleepOk

theorem inv_iff (s : State) : s.Inv ↔
    s.cfg.wf = true ∧ s.TimerOk ∧ s.EdgeOk ∧ s.MboxOk ∧ s.QueueOk ∧ s.CodesOk := by
  constructor
  · rintro ⟨hw, ⟨hpin, hpend, hslots, hmboxes⟩, ⟨hcnt, hcmp, hheap, hrq⟩, hcodes, hentries, hbeats, ⟨hws, hmbw⟩, hlive,
      hcompare, hsleep⟩
    exact ⟨hw, ⟨⟨hcnt, hcmp, hheap, hentries, hbeats⟩, hlive, hcompare⟩, ⟨hpin, hpend, hslots, List.forall_mem_map.mpr hws⟩,
      ⟨hmboxes, List.forall_mem_map.mpr hmbw⟩, ⟨hrq, hsleep⟩, hcodes⟩
  · rintro ⟨hw, ⟨⟨hcnt, hcmp, hheap, hentries, hbeats⟩, hlive, hcompare⟩, ⟨hpin, hpend, hslots, hws⟩, ⟨hmboxes, hmbw⟩,
      ⟨hrq, hsleep⟩, hcodes⟩
    exact ⟨hw, ⟨hpin, hpend, hslots, hmboxes⟩, ⟨hcnt, hcmp, hheap, hrq⟩, hcodes, hentries, hbeats,
      ⟨List.forall_mem_map.mp hws, List.forall_mem_map.mp hmbw⟩, hlive, hcompare, hsleep⟩

/-! ## The tick unit: nothing, a tick, or one `heap_service()` run -/

/-- The fields that TICK and the operations that run `heap_service()` write, with the parameters (R17 to R22, R28). -/
def State.timerUnit (s : State) : Config × Word × Word × Bool × Bool × Bool × Bool × List Entry × Nat :=
  (s.cfg, s.cnt, s.cmp, s.cie, s.cf, s.wf, s.tken, s.heap, s.arrangement)

theorem timerUnit_eq_iff (s t : State) : t.timerUnit = s.timerUnit ↔
    t.cfg = s.cfg ∧ t.cnt = s.cnt ∧ t.cmp = s.cmp ∧ t.cie = s.cie ∧ t.cf = s.cf ∧ t.wf = s.wf ∧ t.tken = s.tken ∧
      t.heap = s.heap ∧ t.arrangement = s.arrangement := by
  simp only [State.timerUnit, Prod.mk.injEq]

theorem written_timerUnit (s : State) (i : Instr) (t : State) (htick : i ≠ .tick) (hinit : i ≠ .tkInit)
    (hpoll : ∀ tid, i ≠ .tkPoll tid .init) (hcmp : i ≠ .svcCmp) (hwrap : i ≠ .svcWrap) :
    (s.written i t).timerUnit = s.timerUnit := by
  cases i with
  | tick => exact absurd rfl htick
  | tkInit => exact absurd rfl hinit
  | svcCmp => exact absurd rfl hcmp
  | svcWrap => exact absurd rfl hwrap
  | tkPoll tid ph =>
    cases ph with
    | init => exact absurd rfl (hpoll tid)
    | wait => rfl
  | _ => rfl

theorem State.HeapOk.congr {s t : State} (h : s.HeapOk) (hcfg : t.cfg = s.cfg) (hcnt : t.cnt = s.cnt)
    (hcmp : t.cmp = s.cmp) (hheap : t.heap = s.heap) : t.HeapOk := by
  obtain ⟨h1, h2, h3, h4, h5⟩ := h
  constructor
  · rwa [hcfg, hcnt]
  · rwa [hcfg, hcmp]
  · rwa [hcfg, hheap]
  · rwa [State.EntriesOk, hcfg, hheap]
  · rwa [State.heartbeats, hheap]

theorem State.TimerOk.of_timerUnit {s t : State} (h : s.TimerOk) (hunit : t.timerUnit = s.timerUnit)
    (hfatal : s.fatal = true → t.fatal = true) : t.TimerOk := by
  obtain ⟨hcfg, hcnt, hcmp, hcie, hcf, -, htken, hheap, -⟩ := (timerUnit_eq_iff s t).mp hunit
  have halive : t.fatal = false → s.fatal = false := fun hf =>
    Bool.eq_false_iff.mpr fun hs => by rw [hfatal hs] at hf; cases hf
  refine ⟨h.toHeapOk.congr hcfg hcnt hcmp hheap, ⟨?_, ?_⟩, ?_⟩
  · rw [htken, hheap]
    exact fun htk hf => h.heapLive.1 htk (halive hf)
  · rw [htken, hheap, hcie]
    exact h.heapLive.2
  · rw [State.CompareLive, hcie, hcf, hcnt, hcmp]
    exact fun hf => h.compareLive (halive hf)

theorem State.Armed.of_timerUnit {s t : State} (h : s.Armed) (hunit : t.timerUnit = s.timerUnit)
    (hfatal : s.fatal = true → t.fatal = true) : t.Armed := by
  obtain ⟨hcfg, hcnt, hcmp, hcie, hcf, hwf, htken, hheap, harr⟩ := (timerUnit_eq_iff s t).mp hunit
  have halive : t.fatal = false → s.fatal = false := fun hf =>
    Bool.eq_false_iff.mpr fun hs => by rw [hfatal hs] at hf; cases hf
  intro htk hf
  obtain ⟨e, htop, hcov⟩ := h (htken ▸ htk) (halive hf)
  refine ⟨e, (heapTop_congr s t hcfg hcnt hheap harr).trans htop, ?_⟩
  rwa [State.Covered, hwf, hcie, hcf, hcmp, hcnt]

theorem wf_heapCap_pos (c : Config) (h : c.wf = true) : 1 ≤ c.heapCap := by
  simp only [Config.wf, Config.capsOk, Bool.and_eq_true, decide_eq_true_eq] at h
  omega

theorem ne_heartbeatId_of_validTid (c : Config) (h : c.wf = true) (t : Byte) (ht : validTid c t = true) :
    t ≠ heartbeatId := by
  rintro rfl
  have hlt := (validTid_iff c heartbeatId).mp ht
  have hle := wf_ntask_le c h
  change 254 < c.ntask at hlt
  omega

/-- Pushing the entry of a valid task keeps the bounds where H has room (R29, R96, R107). -/
theorem State.HeapOk.heapPush {s : State} (h : s.HeapOk) (hw : s.cfg.wf = true) (e : Entry) (hd : e.d.toNat < s.cfg.mod)
    (hid : validTid s.cfg e.id = true) (hroom : s.heap.length ≠ s.cfg.heapCap) : (s.heapPush e).HeapOk := by
  have hperm := heapPush_perm s e
  refine ⟨h.cnt_lt, h.cmp_lt, ?_, fun x hx => ?_, ?_⟩
  · rw [hperm.length_eq, List.length_cons]
    exact Nat.lt_of_le_of_ne h.heap_le hroom
  · rcases List.mem_cons.mp (hperm.subset hx) with rfl | hx
    · exact ⟨hd, .inl hid⟩
    · exact h.entries x hx
  · have hne : ¬(e.id == heartbeatId) = true := by simpa using ne_heartbeatId_of_validTid s.cfg hw e.id hid
    rw [State.heartbeats, hperm.countP_eq, List.countP_cons_of_neg (p := fun x : Entry => x.id == heartbeatId) hne]
    exact h.heartbeats_le

/-- What an instruction can do to the tick unit: nothing; one TICK; or one `heap_service()` run from a state u in order whose
ticker is initialised, with an ending k that leaves the tick unit and the cause. -/
theorem exec_timer_cases {i : Instr} {s t : State} (h : exec i s = .next t) :
    t.timerUnit = s.timerUnit ∨ (i = .tick ∧ s.fatal = false ∧ t = s.ticked) ∨
      ∃ (u : State) (k : State → State), (∀ v, (k v).timerUnit = v.timerUnit ∧ (k v).fatal = v.fatal) ∧
        t = u.heapService.finish k ∧ u.cfg = s.cfg ∧ u.tken = true ∧ (s.cfg.wf = true → s.HeapOk → u.HeapOk) := by
  by_cases htick : i = .tick
  · subst htick
    rcases State.when_cases h with ⟨-, rfl⟩ | ⟨hs, rfl⟩
    · exact .inl rfl
    · exact .inr (.inl ⟨rfl, s.fatal_eq_false_iff.mpr (s.tickReady_iff.mp hs), rfl⟩)
  by_cases hinit : i = .tkInit
  · subst hinit
    rcases exec_tkInit_cases h with hend | ⟨-, -, ht⟩
    · exact .inl (by rw [hend]; rfl)
    · refine .inr (.inr ⟨s.tickerCleared, fun u => u.done 0#32 0#32, fun _ => ⟨rfl, rfl⟩, ht, rfl, rfl, fun _ hok => ?_⟩)
      exact ⟨hok.cnt_lt, hok.cmp_lt, Nat.zero_le _, nofun, Nat.zero_le _⟩
  by_cases hcmp : i = .svcCmp
  · subst hcmp
    rcases exec_svcCmp_cases h with rfl | ⟨hs, ht⟩
    · exact .inl rfl
    · obtain ⟨-, htk, -, -⟩ := s.svcCmpReady_iff.mp hs
      exact .inr (.inr ⟨{ s with cf := false }, State.awake, fun _ => ⟨rfl, rfl⟩, ht, rfl, htk,
        fun _ hok => hok.congr rfl rfl rfl rfl⟩)
  by_cases hwrap : i = .svcWrap
  · subst hwrap
    rcases exec_svcWrap_cases h with rfl | ⟨hs, ht⟩
    · exact .inl rfl
    · obtain ⟨-, htk, -⟩ := s.svcWrapReady_iff.mp hs
      exact .inr (.inr ⟨{ s with wf := false }, State.awake, fun _ => ⟨rfl, rfl⟩, ht, rfl, htk,
        fun _ hok => hok.congr rfl rfl rfl rfl⟩)
  by_cases hpoll : ∃ tid, i = .tkPoll tid .init
  · obtain ⟨tid, rfl⟩ := hpoll
    rcases exec_tkPoll_init_cases h with hend | ⟨-, hid, htk, hroom, ht⟩
    · exact .inl (by rw [hend]; rfl)
    · exact .inr (.inr ⟨s.heapPush (Entry.mk (instantOf s.cfg s.arg) tid), fun u => u.done (pollWord false true) 0#32,
        fun _ => ⟨rfl, rfl⟩, ht, rfl, htk, fun hw hok =>
          hok.heapPush hw _ (instantOf_lt s.cfg (wf_mod_le s.cfg hw) s.arg) hid hroom⟩)
  · rw [exec_written h]
    exact .inl (written_timerUnit s i t htick hinit (fun tid hi => hpoll ⟨tid, hi⟩) hcmp hwrap)

/-- No instruction leaves the halt (R188). -/
theorem exec_fatal_mono {i : Instr} {s t : State} (h : exec i s = .next t) (hf : s.fatal = true) : t.fatal = true := by
  rw [exec_eq_of_fatal hf h, hf]

/-! ## `heap_service()` and TICK keep the tick unit in order -/

/-- H after some of its entries were popped. -/
theorem State.HeapOk.of_perm {s t : State} (h : s.HeapOk) (hcfg : t.cfg = s.cfg) (hcnt : t.cnt = s.cnt)
    (hcmp : t.cmp.toNat < s.cfg.mod) (popped : List Entry) (hperm : (popped ++ t.heap).Perm s.heap) : t.HeapOk := by
  have hlen := hperm.length_eq
  have hbeats := hperm.countP_eq (fun e => e.id == heartbeatId)
  have hle := h.heap_le
  have hone := h.heartbeats_le
  rw [List.length_append] at hlen
  rw [List.countP_append] at hbeats
  unfold State.heartbeats at hone
  refine ⟨by rw [hcfg, hcnt]; exact h.cnt_lt, by rwa [hcfg], by rw [hcfg]; omega, fun x hx => ?_, ?_⟩
  · rw [hcfg]
    exact h.entries x (hperm.subset (List.mem_append_right _ hx))
  · unfold State.heartbeats
    omega

/-- H with the heartbeat alone (R101). -/
theorem State.HeapOk.of_heartbeat {s t : State} (h : s.HeapOk) (hw : s.cfg.wf = true) (hcfg : t.cfg = s.cfg)
    (hcnt : t.cnt = s.cnt) (hcmp : t.cmp.toNat < s.cfg.mod) (hheap : t.heap = [s.heartbeatEntry]) : t.HeapOk := by
  refine ⟨by rw [hcfg, hcnt]; exact h.cnt_lt, by rwa [hcfg], ?_, fun x hx => ?_, ?_⟩
  · rw [hcfg, hheap]
    exact wf_heapCap_pos s.cfg hw
  · rw [hheap, List.mem_singleton] at hx
    subst hx
    rw [hcfg]
    exact ⟨tAdd_lt s.cfg (wf_mod_le s.cfg hw) _ _, .inr rfl⟩
  · rw [State.heartbeats, hheap]
    exact List.countP_le_length

/-- What a completed run leaves: H in order and not empty, and the nearest deadline covered by CMP or by the wrap (R102,
R103). -/
theorem State.Serviced.timerOk {s t : State} (hs : s.Serviced s.heap t) (hok : s.HeapOk) (hw : s.cfg.wf = true)
    (htk : s.tken = true) (hcfg : t.cfg = s.cfg) (hcnt : t.cnt = s.cnt) (htken : t.tken = s.tken) :
    t.TimerOk ∧ t.Armed := by
  obtain ⟨popped, rest, hperm, -, -, -, -, -, hheap, e, htop, hel, hcmp, hcie⟩ := hs
  have hm := wf_mod_le s.cfg hw
  have hmem := (heapTop_some t e htop).1
  have hed : e.d.toNat < s.cfg.mod := by
    rw [hheap] at hmem
    split at hmem
    · rw [List.mem_singleton.mp hmem]
      exact tAdd_lt s.cfg hm _ _
    · exact (hok.entries e (hperm.subset (List.mem_append_right _ hmem))).1
  have hcmpLt : t.cmp.toNat < s.cfg.mod := by
    rw [hcmp]
    split
    · exact hed
    · exact hok.cmp_lt
  have hheapOk : t.HeapOk := by
    by_cases h0 : rest = []
    · rw [if_pos h0] at hheap
      exact hok.of_heartbeat hw hcfg hcnt hcmpLt hheap
    · rw [if_neg h0] at hheap
      exact hok.of_perm hcfg hcnt hcmpLt popped (hheap ▸ hperm)
  have hne : e.d.toNat ≠ s.cnt.toNat := fun heq => by
    rw [BitVec.eq_of_toNat_eq heq, elapsed_self s.cfg hm s.cnt hok.cnt_lt] at hel
    cases hel
  refine ⟨⟨hheapOk, ⟨fun _ _ => List.ne_nil_of_mem hmem, fun hf => ?_⟩, fun _ hc => .inr ?_⟩, fun _ _ => ⟨e, htop, ?_⟩⟩
  · rw [htken, htk] at hf
    cases hf
  · rw [hcie, decide_eq_true_eq] at hc
    rw [hcmp, if_pos hc, hcnt]
    exact hc
  · rw [State.Covered, hcie, hcmp, hcnt]
    rcases Nat.lt_or_ge s.cnt.toNat e.d.toNat with hlt | hge
    · exact .inr (.inr (.inl ⟨decide_eq_true hlt, if_pos hlt, hlt⟩))
    · exact .inr (.inr (.inr ⟨decide_eq_false (Nat.not_lt.mpr hge), by omega⟩))

theorem heapService_finish_timerOk (u : State) (k : State → State)
    (hk : ∀ v, (k v).timerUnit = v.timerUnit ∧ (k v).fatal = v.fatal) (hw : u.cfg.wf = true) (hok : u.HeapOk)
    (htk : u.tken = true) : (u.heapService.finish k).TimerOk ∧ (u.heapService.finish k).Armed := by
  rcases heapService_spec u hw hok.cnt_lt (fun e he => (hok.entries e he).1) with
    ⟨t, hgo, hserved, hframe⟩ | ⟨t, hhalt, hhalted, hframe⟩
  · obtain ⟨htimer, harmed⟩ := hserved.timerOk hok hw htk (congrArg State.cfg hframe :) (congrArg State.cnt hframe :)
      (congrArg State.tken hframe :)
    rw [hgo, Flow.finish_go]
    exact ⟨htimer.of_timerUnit (hk t).1 (hk t).2.trans, harmed.of_timerUnit (hk t).1 (hk t).2.trans⟩
  · obtain ⟨popped, e, rest, hperm, -, -, -, -, hheap, -, -, hcause, -, hcmp, -⟩ := hhalted
    have hfatal : t.fatal = true := t.fatal_iff.mpr (by rw [hcause]; decide)
    rw [hhalt, Flow.finish_halt]
    refine ⟨⟨?_, ⟨fun _ hf => ?_, fun hf => ?_⟩, fun hf => ?_⟩, fun _ hf => ?_⟩
    · refine hok.of_perm (congrArg State.cfg hframe :) (congrArg State.cnt hframe :) (hcmp ▸ hok.cmp_lt) (popped ++ [e]) ?_
      rw [hheap, List.append_assoc]
      exact hperm
    · rw [hfatal] at hf; cases hf
    · rw [(congrArg State.tken hframe :), htk] at hf; cases hf
    · rw [hfatal] at hf; cases hf
    · rw [hfatal] at hf; cases hf

theorem ticked_timerOk (s : State) (hw : s.cfg.wf = true) (h : s.TimerOk) (hf : s.fatal = false) :
    s.ticked.TimerOk := by
  refine ⟨⟨nextCnt_lt s hw, h.cmp_lt, h.heap_le, h.entries, h.heartbeats_le⟩, h.heapLive, fun _ hcie => ?_⟩
  have hcmp := h.cmp_lt
  rcases h.compareLive hf hcie with hcf | hlt
  · exact .inl (ticked_cf_of_cf s hcf)
  · rcases nextCnt_cases s hw h.cnt_lt with ⟨-, hnext⟩ | ⟨hwrap, -⟩
    · by_cases hmatch : s.nextCnt.toNat = s.cmp.toNat
      · exact .inl (ticked_cf_of_match s hmatch)
      · refine .inr ?_
        change s.nextCnt.toNat < s.cmp.toNat
        omega
    · omega

/-- A deadline covered before a TICK is covered after it: the match or the wrap that covers it comes no later. -/
theorem ticked_covered (s : State) (hw : s.cfg.wf = true) (hn : s.cnt.toNat < s.cfg.mod) (e : Entry)
    (hed : e.d.toNat < s.cfg.mod) (h : s.Covered e) : s.ticked.Covered e := by
  rcases h with hwf | ⟨hcie, hcf⟩ | ⟨hcie, hcmp, hlt⟩ | ⟨hcie, hlt⟩
  · exact .inl (ticked_wf_of_wf s hwf)
  · exact .inr (.inl ⟨hcie, ticked_cf_of_cf s hcf⟩)
  · rcases nextCnt_cases s hw hn with ⟨-, hnext⟩ | ⟨hwrap, -⟩
    · by_cases hmatch : s.nextCnt.toNat = s.cmp.toNat
      · exact .inr (.inl ⟨hcie, ticked_cf_of_match s hmatch⟩)
      · refine .inr (.inr (.inl ⟨hcie, hcmp, ?_⟩))
        rw [hcmp] at hmatch
        change s.nextCnt.toNat < e.d.toNat
        omega
    · omega
  · rcases nextCnt_cases s hw hn with ⟨-, hnext⟩ | ⟨-, hnext⟩
    · refine .inr (.inr (.inr ⟨hcie, ?_⟩))
      change e.d.toNat < s.nextCnt.toNat
      omega
    · exact .inl (ticked_wf_of_wrap s hnext)

/-- Where no signed distance jumps, a TICK keeps the nearest deadline, though the election among its entries may change. -/
theorem ticked_top (s : State) (hw : s.cfg.wf = true) (h : s.HeapOk) (hwin : s.InWindow) (e : Entry)
    (htop : s.heapTop = some e) : ∃ e', s.ticked.heapTop = some e' ∧ e'.d = e.d := by
  obtain ⟨hmem, hmin⟩ := heapTop_some s e htop
  obtain ⟨e', htop'⟩ := heapTop_exists s.ticked (List.ne_nil_of_mem (show e ∈ s.ticked.heap from hmem))
  obtain ⟨hmem', hmin'⟩ := heapTop_some s.ticked e' htop'
  have hdist : ∀ x ∈ s.heap, sdist s.cfg x.d s.nextCnt = sdist s.cfg x.d s.cnt - 1 := fun x hx =>
    sdist_tick s.cfg hw x.d s.cnt (h.entries x hx).1 h.cnt_lt (hwin x hx)
  have hle : sdist s.cfg e'.d s.nextCnt ≤ sdist s.cfg e.d s.nextCnt := hmin' e hmem
  rw [hdist e' hmem', hdist e hmem] at hle
  have hge := hmin e' hmem'
  exact ⟨e', htop', sdist_inj s.cfg hw _ _ s.cnt (h.entries e' hmem').1 (h.entries e hmem).1 h.cnt_lt (by omega)⟩

theorem ticked_armed (s : State) (hw : s.cfg.wf = true) (h : s.HeapOk) (hwin : s.InWindow) (ha : s.Armed) :
    s.ticked.Armed := by
  intro htk hf
  obtain ⟨e, htop, hcov⟩ := ha htk hf
  obtain ⟨e', htop', heq⟩ := ticked_top s hw h hwin e htop
  have hcov' := ticked_covered s hw h.cnt_lt e (h.entries e (heapTop_some s e htop).1).1 hcov
  rw [State.Covered, ← heq] at hcov'
  exact ⟨e', htop', hcov'⟩

theorem exec_timerOk {i : Instr} {s t : State} (h : exec i s = .next t) (hw : s.cfg.wf = true) (hok : s.TimerOk) :
    t.TimerOk := by
  rcases exec_timer_cases h with hsame | ⟨-, hf, rfl⟩ | ⟨u, k, hk, rfl, hcfg, htk, hu⟩
  · exact hok.of_timerUnit hsame (exec_fatal_mono h)
  · exact ticked_timerOk s hw hok hf
  · exact (heapService_finish_timerOk u k hk (hcfg ▸ hw) (hu hw hok.toHeapOk) htk).1

theorem exec_armed {i : Instr} {s t : State} (h : exec i s = .next t) (hw : s.cfg.wf = true) (hok : s.HeapOk)
    (hwin : i = .tick → s.InWindow) (ha : s.Armed) : t.Armed := by
  rcases exec_timer_cases h with hsame | ⟨hi, -, rfl⟩ | ⟨u, k, hk, rfl, hcfg, htk, hu⟩
  · exact ha.of_timerUnit hsame (exec_fatal_mono h)
  · exact ticked_armed s hw hok (hwin hi) ha
  · exact (heapService_finish_timerOk u k hk (hcfg ▸ hw) (hu hw hok) htk).2

/-! ## The edge unit -/

theorem setWs_ws (s : State) (i : Nat) (t : Byte) :
    (s.setWs i t).slots.map Slot.ws = (s.slots.map Slot.ws).set i t := List.map_set

theorem setMbw_mbw (s : State) (i : Nat) (t : Byte) :
    (s.setMbw i t).mboxes.map Mailbox.mbw = (s.mboxes.map Mailbox.mbw).set i t := List.map_set

/-- The registered identities after an instruction: as before, or one slot written with a valid identity or NO_TASK (R35). -/
theorem exec_ws_cases {i : Instr} {s t : State} (h : exec i s = .next t) :
    t.slots.map Slot.ws = s.slots.map Slot.ws ∨
      ∃ n w, waiterOk s.cfg w ∧ t.slots.map Slot.ws = (s.slots.map Slot.ws).set n w := by
  by_cases hpoll : ∃ a b, i = .ewPoll a b
  · obtain ⟨a, b, rfl⟩ := hpoll
    rcases exec_ewPoll_slots h with hslots | ⟨hid, hslots⟩
    · exact .inl (by rw [hslots])
    · exact .inr ⟨_, a, .inl hid, by rw [hslots, setWs_ws]⟩
  by_cases hedge : ∃ l, i = .svcEdge l
  · obtain ⟨l, rfl⟩ := hedge
    rcases exec_svcEdge_slots h with hslots | ⟨n, -, hslots⟩
    · exact .inl (by rw [hslots])
    · exact .inr ⟨n, noTask, .inr rfl, by rw [hslots, setWs_ws]⟩
  · exact .inl (exec_ws h (fun a b hi => hpoll ⟨a, b, hi⟩) fun l hi => hedge ⟨l, hi⟩)

theorem exec_mbw_cases {i : Instr} {s t : State} (h : exec i s = .next t) :
    t.mboxes.map Mailbox.mbw = s.mboxes.map Mailbox.mbw ∨
      ∃ n w, waiterOk s.cfg w ∧ t.mboxes.map Mailbox.mbw = (s.mboxes.map Mailbox.mbw).set n w := by
  by_cases hinit : ∃ a m, i = .mbRecv a m .init
  · obtain ⟨a, m, rfl⟩ := hinit
    rcases exec_mbRecv_mboxes h with hm | ⟨-, hid, hm⟩ | hm
    · exact .inl (by rw [hm])
    · exact .inr ⟨_, a, .inl hid, by rw [hm, setMbw_mbw]⟩
    · exact .inl (by rw [hm, takeItem_mbw])
  · exact .inl (exec_mbw h fun a m hi => hinit ⟨a, m, hi⟩)

/-- A list of identities in order, one of them set to one in order. -/
theorem waitersOk_set (c : Config) (ts : List Byte) (n : Nat) (w : Byte) (h : ∀ t ∈ ts, waiterOk c t)
    (hw : waiterOk c w) : ∀ t ∈ ts.set n w, waiterOk c t := fun t ht =>
  (List.mem_or_eq_of_mem_set ht).elim (h t) fun heq => heq ▸ hw

theorem exec_pin_length {i : Instr} {s t : State} (h : exec i s = .next t) : t.pin.length = s.pin.length := by
  by_cases hpin : ∃ l v, i = .pin l v
  · obtain ⟨l, v, rfl⟩ := hpin
    rcases State.when_cases h with ⟨-, rfl⟩ | ⟨-, rfl⟩
    · rfl
    · exact List.length_set
  · rw [exec_written h, written_pin s i t fun l v hi => hpin ⟨l, v, hi⟩]

theorem exec_pend_length {i : Instr} {s t : State} (h : exec i s = .next t) : t.pend.length = s.pend.length := by
  by_cases hpin : ∃ l v, i = .pin l v
  · obtain ⟨l, v, rfl⟩ := hpin
    rcases State.when_cases h with ⟨-, rfl⟩ | ⟨-, rfl⟩
    · rfl
    · split
      · exact List.length_set
      · rfl
  by_cases hedge : ∃ l, i = .svcEdge l
  · obtain ⟨l, rfl⟩ := hedge
    rcases exec_svcEdge_cases h with rfl | ⟨-, -, rfl⟩ | ⟨-, n, -, rfl⟩
    · rfl
    · exact List.length_set
    · obtain ⟨q, -, hgo | ⟨info, hhalt⟩⟩ := wakeWaiter_finish_cases ((s.clearPend l).setWs n noTask)
        (s.slotAt n).ws State.awake
      · rw [hgo]
        exact List.length_set
      · rw [hhalt]
        exact List.length_set
  · rw [exec_written h, written_pend s i t (fun l v hi => hpin ⟨l, v, hi⟩) fun l hi => hedge ⟨l, hi⟩]

theorem exec_edgeOk {i : Instr} {s t : State} (h : exec i s = .next t) (hok : s.EdgeOk) : t.EdgeOk := by
  have hcfg := exec_cfg h
  refine ⟨by rw [exec_pin_length h, hcfg]; exact hok.pin_length, by rw [exec_pend_length h, hcfg]; exact hok.pend_length,
    ?_, ?_⟩
  · rw [hcfg, ← hok.slots_length, ← List.length_map (f := Slot.ws), ← List.length_map (as := s.slots) (f := Slot.ws)]
    rcases exec_ws_cases h with hsame | ⟨n, w, -, hset⟩
    · rw [hsame]
    · rw [hset, List.length_set]
  · rw [hcfg]
    rcases exec_ws_cases h with hsame | ⟨n, w, hw, hset⟩
    · rw [hsame]
      exact hok.waiters
    · rw [hset]
      exact waitersOk_set s.cfg _ n w hok.waiters hw

theorem exec_mboxOk {i : Instr} {s t : State} (h : exec i s = .next t) (hok : s.MboxOk) : t.MboxOk := by
  have hcfg := exec_cfg h
  refine ⟨?_, ?_⟩
  · rw [hcfg, ← hok.length, ← List.length_map (f := Mailbox.mbw), ← List.length_map (as := s.mboxes) (f := Mailbox.mbw)]
    rcases exec_mbw_cases h with hsame | ⟨n, w, -, hset⟩
    · rw [hsame]
    · rw [hset, List.length_set]
  · rw [hcfg]
    rcases exec_mbw_cases h with hsame | ⟨n, w, hw, hset⟩
    · rw [hsame]
      exact hok.wakers
    · rw [hset]
      exact waitersOk_set s.cfg _ n w hok.wakers hw

/-! ## RQ, SLEEP and the codes -/

theorem exec_rq_le {i : Instr} {s t : State} (h : exec i s = .next t) (hle : s.rq.length ≤ s.cfg.rqCap) :
    t.rq.length ≤ s.cfg.rqCap := by
  cases exec_ends i s t h with
  | idle hidle => rwa [hidle]
  | completed _ _ _ _ hrq => exact hrq hle
  | halted _ _ _ _ _ hrq => exact hrq hle

theorem written_sleep (s : State) (i : Instr) (t : State) (hi : i.isHostOp = true) (hne : i ≠ .exSleep) :
    (s.written i t).sleep = s.sleep := by
  cases i with
  | svcCmp | svcWrap | svcEdge _ | tick | pin _ _ => cases hi
  | exSleep => exact absurd rfl hne
  | tkPoll tid ph => cases ph <;> rfl
  | _ => rfl

/-- The services wake HOST, or halt (R110, R111, R127). -/
theorem sleepOk_of_awake {t : State} (h : t.sleep = false ∨ t.fatal = true) : t.SleepOk := by
  rcases h with hawake | hfatal
  · exact fun _ hs => by rw [hawake] at hs; cases hs
  · exact fun hf => by rw [hfatal] at hf; cases hf

theorem heapService_awake (u : State) :
    (u.heapService.finish State.awake).sleep = false ∨ (u.heapService.finish State.awake).fatal = true := by
  obtain ⟨_, _, _, -, ⟨_, _, hgo⟩ | ⟨info, hhalt⟩⟩ := heapService_finish_cases u State.awake
  · exact .inl (by rw [hgo]; rfl)
  · exact .inr (by rw [hhalt]; exact State.raiseFatal_fatal _ _ _)

/-- A host operation that is taken finds HOST awake, and of these only EX_SLEEP can put it to sleep. -/
theorem exec_hostOp_sleepOk {i : Instr} {s t : State} (h : exec i s = .next t) (hi : i.isHostOp = true)
    (hne : i ≠ .exSleep) (hok : s.SleepOk) : t.SleepOk := by
  cases hs : s.hostReady with
  | false =>
    cases (exec_of_not_hostReady i s hi hs).symm.trans h
    exact hok
  | true =>
    refine sleepOk_of_awake (.inl ?_)
    rw [exec_written h, written_sleep s i t hi hne]
    exact (s.hostReady_iff.mp hs).2

theorem exec_sleepOk {i : Instr} {s t : State} (h : exec i s = .next t) (hok : s.SleepOk) : t.SleepOk := by
  cases i with
  | exSleep =>
    rcases State.when_cases h with ⟨-, rfl⟩ | ⟨hs, rfl⟩
    · exact hok
    · have hawake := (s.hostReady_iff.mp hs).2
      intro _ hsleep
      change (s.sleep || s.rq.isEmpty) = true at hsleep
      rw [hawake, Bool.false_or] at hsleep
      exact List.isEmpty_iff.mp hsleep
  | svcCmp =>
    rcases exec_svcCmp_cases h with rfl | ⟨-, rfl⟩
    · exact hok
    · exact sleepOk_of_awake (heapService_awake _)
  | svcWrap =>
    rcases exec_svcWrap_cases h with rfl | ⟨-, rfl⟩
    · exact hok
    · exact sleepOk_of_awake (heapService_awake _)
  | svcEdge l =>
    rcases exec_svcEdge_cases h with rfl | ⟨-, -, rfl⟩ | ⟨-, n, -, rfl⟩
    · exact hok
    · exact sleepOk_of_awake (.inl rfl)
    · obtain ⟨q, -, hgo | ⟨info, hhalt⟩⟩ := wakeWaiter_finish_cases ((s.clearPend l).setWs n noTask)
        (s.slotAt n).ws State.awake
      · exact sleepOk_of_awake (.inl (by rw [hgo]; rfl))
      · exact sleepOk_of_awake (.inr (by rw [hhalt]; exact State.raiseFatal_fatal _ _ _))
  | tick =>
    rw [exec_written h]
    exact hok
  | pin l v =>
    rw [exec_written h]
    exact hok
  | _ => exact exec_hostOp_sleepOk h rfl nofun hok

theorem exec_codesOk {i : Instr} {s t : State} (h : exec i s = .next t) (hok : s.CodesOk) : t.CodesOk := by
  obtain ⟨hstatus, hcause⟩ := hok
  cases exec_ends i s t h with
  | idle hidle => rw [hidle]; exact ⟨hstatus, hcause⟩
  | completed _ hc _ hst _ =>
    refine ⟨?_, by rwa [hc]⟩
    rcases hst with hsame | ⟨code, hcode⟩
    · rwa [hsame]
    · rw [hcode]
      cases code <;> decide
  | halted _ _ _ hst hc _ =>
    obtain ⟨cause, hc⟩ := hc
    refine ⟨by rwa [hst], ?_⟩
    rw [hc]
    cases cause <;> decide

/-! ## The whole block -/

theorem exec_inv {i : Instr} {s t : State} (h : exec i s = .next t) (hinv : s.Inv) : t.Inv := by
  obtain ⟨hw, htimer, hedge, hmbox, hqueue, hcodes⟩ := (inv_iff s).mp hinv
  have hcfg := exec_cfg h
  refine (inv_iff t).mpr ⟨by rwa [hcfg], exec_timerOk h hw htimer, exec_edgeOk h hedge, exec_mboxOk h hmbox,
    ⟨?_, exec_sleepOk h hqueue.sleepOk⟩, exec_codesOk h hcodes⟩
  rw [hcfg]
  exact exec_rq_le h hqueue.rq_le

/-- Every list of the reset state repeats one value, and the parameters give CNT_RESET and PIN_RESET (R12, R49). -/
theorem init_inv (c : Config) (hw : c.wf = true) : (State.init c).Inv := by
  have hlt := wf_cntReset_lt c hw
  have hcnt : (BitVec.ofNat 32 c.cntReset).toNat < c.mod := by
    rwa [BitVec.toNat_ofNat, Nat.mod_eq_of_lt (hlt.trans_le (wf_mod_le c hw))]
  refine ⟨hw, ⟨wf_pinReset_length c hw, List.length_replicate, List.length_replicate, List.length_replicate⟩,
    ⟨hcnt, mod_pos c, Nat.zero_le _, Nat.zero_le _⟩, ⟨Nat.zero_le _, Nat.zero_le _⟩, nofun, Nat.zero_le _,
    ⟨fun x hx => ?_, fun x hx => ?_⟩, ⟨nofun, fun _ => ⟨rfl, rfl⟩⟩, nofun, nofun⟩
  · rw [List.eq_of_mem_replicate hx]
    exact .inr rfl
  · rw [List.eq_of_mem_replicate hx]
    exact .inr rfl

theorem armed_of_tken_false {s : State} (h : s.tken = false) : s.Armed := fun htk => by
  rw [h] at htk
  cases htk

/-- Settles O2: the reset table at the default parameters, evaluated. -/
theorem resetStateHoldsTheDefaults : Obligations.ResetStateHoldsTheDefaults := by
  unfold Obligations.ResetStateHoldsTheDefaults
  decide

/-- Settles O3: the invariant of the reset state, and nothing to cover before TK_INIT. -/
theorem resetMeetsTheInvariant : Obligations.ResetMeetsTheInvariant :=
  fun c hw => ⟨init_inv c hw, armed_of_tken_false rfl⟩

/-- Settles O53: a step is an access that leaves the fields the invariant reads, a refused word, which writes a status code,
reset, or one instruction. -/
theorem everyStepKeepsTheInvariant : Obligations.EveryStepKeepsTheInvariant := by
  intro s t hinv h
  cases step_cases s t h with
  | port heq =>
    rw [heq]
    exact hinv
  | illegal w rest heq =>
    rw [heq]
    obtain ⟨hw, hshape, hbounds, ⟨-, hcause⟩, hrest⟩ := hinv
    exact ⟨hw, hshape, hbounds, ⟨show (1#32).toNat ≤ 3 by decide, hcause⟩, hrest⟩
  | reset rest heq =>
    rw [heq]
    exact init_inv s.cfg hinv.1
  | instr i w rest _ hexec => exact exec_inv hexec hinv

/-- Settles O54: of the steps, TICK moves CNT and the operations that run `heap_service()` arm anew; no other touches what the
coverage reads. -/
theorem everyStepKeepsTheNearestDeadlineCovered : Obligations.EveryStepKeepsTheNearestDeadlineCovered := by
  intro s t hinv hwin harmed h
  obtain ⟨hw, htimer, -⟩ := (inv_iff s).mp hinv
  cases step_cases s t h with
  | port heq =>
    rw [heq]
    exact harmed
  | illegal w rest heq =>
    rw [heq]
    exact harmed
  | reset rest heq =>
    rw [heq]
    exact armed_of_tken_false rfl
  | instr i w rest hi hexec =>
    exact exec_armed hexec hw (htimer.toHeapOk.congr rfl rfl rfl rfl) (fun htick => hwin (hi htick)) harmed

end Sys2Proof.Machine
end

section
/-! PROOFS. Statements over runs: the waiters of the edge unit (42_edge.md R127, R129) and the service latency premise
(70_reset_and_hazards.md R214). -/

namespace Sys2Proof.Machine

/-! ## The identity registered in a slot -/

theorem slotAt_ws (s : State) (i : Nat) : (s.slotAt i).ws = (s.slots.map Slot.ws).getD i noTask := by
  by_cases hi : i < s.slots.length <;> simp [State.slotAt, hi]

theorem slotAt_ws_of_map_eq {s t : State} (i : Nat) (h : t.slots.map Slot.ws = s.slots.map Slot.ws) :
    (t.slotAt i).ws = (s.slotAt i).ws := by
  rw [slotAt_ws, slotAt_ws, h]

/-- A slot set to NO_TASK reads as NO_TASK, and so does a slot that the block does not have (log 7). -/
theorem getD_set_noTask (ts : List Byte) (i : Nat) : (ts.set i noTask).getD i noTask = noTask := by
  by_cases hi : i < ts.length <;> simp [hi]

theorem getD_set_ne {α : Type} (l : List α) (i j : Nat) (x d : α) (h : j ≠ i) : (l.set j x).getD i d = l.getD i d := by
  rw [List.getD_eq_getElem?_getD, List.getElem?_set_ne h, List.getD_eq_getElem?_getD]

/-- LINE_OF_SLOT gives back the line of a slot found for it (R9). -/
theorem lineOfSlot_of_slotOfLine (c : Config) (l i : Nat) (h : slotOfLine c l = some i) : c.lineOfSlot[i]? = some l := by
  obtain ⟨hlt, heq, -⟩ := List.findIdx?_eq_some_iff_getElem.mp h
  rw [List.getElem?_eq_getElem hlt, eq_of_beq heq]

/-- Outside the edge service of its own line and an EW_POLL of it, a slot keeps its waiter. -/
theorem exec_slotAt_ws {j : Instr} {s t : State} {i l : Nat} (h : exec j s = .next t) (hl : s.cfg.lineOfSlot[i]? = some l)
    (hpoll : ∀ tid slot, j = .ewPoll tid slot → slot.toNat ≠ i) (hedge : j ≠ .svcEdge l) :
    (t.slotAt i).ws = (s.slotAt i).ws := by
  by_cases hp : ∃ tid slot, j = .ewPoll tid slot
  · obtain ⟨tid, slot, rfl⟩ := hp
    rcases exec_ewPoll_slots h with hslots | ⟨-, hslots⟩
    · exact slotAt_ws_of_map_eq i (by rw [hslots])
    · rw [slotAt_ws, slotAt_ws, hslots, setWs_ws, getD_set_ne _ _ _ _ _ (hpoll tid slot rfl)]
  by_cases he : ∃ l', j = .svcEdge l'
  · obtain ⟨l', rfl⟩ := he
    rcases exec_svcEdge_slots h with hslots | ⟨n, hn, hslots⟩
    · exact slotAt_ws_of_map_eq i (by rw [hslots])
    · have hni : n ≠ i := by
        rintro rfl
        exact hedge (congrArg Instr.svcEdge (Option.some_inj.mp ((lineOfSlot_of_slotOfLine s.cfg l' n hn).symm.trans hl)))
      rw [slotAt_ws, slotAt_ws, hslots, setWs_ws, getD_set_ne _ _ _ _ _ hni]
  · exact slotAt_ws_of_map_eq i (exec_ws h (fun tid slot hj => hp ⟨tid, slot, hj⟩) fun l' hj => he ⟨l', hj⟩)

/-! ## One edge service -/

theorem wakeWaiter_cases (s : State) (t : Byte) (k : State → State) :
    (t = noTask ∧ (s.wakeWaiter t).finish k = k s) ∨
      (t ≠ noTask ∧ s.rq.length ≠ s.cfg.rqCap ∧ (s.wakeWaiter t).finish k = k (s.rqAppend t)) ∨
      (t ≠ noTask ∧ s.rq.length = s.cfg.rqCap ∧
        (s.wakeWaiter t).finish k = s.raiseFatal .rqFull (t.zeroExtend 32)) := by
  by_cases hnone : t = noTask
  · exact .inl ⟨hnone, by rw [wakeWaiter_of_eq s t hnone, Flow.finish_go]⟩
  · rw [wakeWaiter_of_ne s t hnone]
    rcases wake_finish_cases s t k with ⟨hroom, hgo⟩ | ⟨hfull, hhalt⟩
    · exact .inr (.inl ⟨hnone, hroom, hgo⟩)
    · exact .inr (.inr ⟨hnone, hfull, hhalt⟩)

theorem wokenBetween_of_append {s t : State} (ts : List Byte) (hf : t.fcause = s.fcause) (hrq : t.rq = s.rq ++ ts) :
    wokenBetween s t = ts := by
  rw [wokenBetween, if_pos hf, hrq, List.drop_left]

theorem wokenBetween_of_halt {s t : State} (w : Byte) (hf : t.fcause ≠ s.fcause) (hinfo : t.finfo = w.zeroExtend 32) :
    wokenBetween s t = [w] := by
  have hlow : (w.zeroExtend 32).extractLsb' 0 8 = w := by
    apply BitVec.eq_of_toNat_eq
    have := w.isLt
    simp [BitVec.extractLsb'_toNat]
    omega
  rw [wokenBetween, if_neg hf, hinfo, hlow]

/-- The edge service of a slot's line asks for no wake and keeps the registration, or asks for one wake, of the registered
identity, and clears the registration, whether it completes or halts (R127, R187). -/
theorem exec_svcEdge_woken {s t : State} {i l : Nat} (h : exec (.svcEdge l) s = .next t) (hw : s.cfg.wf = true)
    (hl : s.cfg.lineOfSlot[i]? = some l) :
    (wokenBetween s t = [] ∧ (t.slotAt i).ws = (s.slotAt i).ws) ∨
      ((s.slotAt i).ws ≠ noTask ∧ wokenBetween s t = [(s.slotAt i).ws] ∧ (t.slotAt i).ws = noTask) := by
  have hslot := slotOfLine_of_lineOfSlot s.cfg hw i l hl
  rcases exec_svcEdge_cases h with rfl | ⟨-, hnone, -⟩ | ⟨hready, n, hn, rfl⟩
  · exact .inl ⟨wokenBetween_of_append [] rfl (List.append_nil _).symm, rfl⟩
  · rw [hslot] at hnone
    cases hnone
  · obtain rfl : i = n := Option.some_inj.mp (hslot.symm.trans hn)
    have hcause := ((s.svcEdgeReady_iff l).mp hready).1
    have hclear : ∀ v : State, v.slots = ((s.clearPend l).setWs i noTask).slots → (v.slotAt i).ws = noTask := fun v hv => by
      rw [slotAt_ws, hv, setWs_ws, getD_set_noTask]
    rcases wakeWaiter_cases ((s.clearPend l).setWs i noTask) (s.slotAt i).ws State.awake with
      ⟨hnone, hend⟩ | ⟨hsome, -, hend⟩ | ⟨hsome, -, hend⟩
    · rw [hend]
      exact .inl ⟨wokenBetween_of_append [] rfl (List.append_nil _).symm, (hclear _ rfl).trans hnone.symm⟩
    · rw [hend]
      exact .inr ⟨hsome, wokenBetween_of_append _ rfl rfl, hclear _ rfl⟩
    · rw [hend]
      refine .inr ⟨hsome, wokenBetween_of_halt _ ?_ rfl, hclear _ rfl⟩
      rw [hcause]
      exact show (1#32 : Word) ≠ 0#32 by decide

/-! ## A run without an EW_POLL of the slot -/

theorem edgeWoken_cons {j : Instr} {s t : State} (l : Nat) (js : List Instr) (h : exec j s = .next t) :
    edgeWoken l (j :: js) s = (if j = .svcEdge l then wokenBetween s t else []) ++ edgeWoken l js t := by
  simp [edgeWoken, h]

/-- Over a run without an EW_POLL of slot i the edge services of its line wake its waiter at most once. -/
theorem edgeWoken_le_one (js : List Instr) (s : State) (i l : Nat) (hw : s.cfg.wf = true)
    (hl : s.cfg.lineOfSlot[i]? = some l) (hpoll : ∀ tid slot, Instr.ewPoll tid slot ∈ js → slot.toNat ≠ i) :
    edgeWoken l js s = [] ∨ ((s.slotAt i).ws ≠ noTask ∧ edgeWoken l js s = [(s.slotAt i).ws]) := by
  induction js generalizing s with
  | nil => exact .inl rfl
  | cons j js ih =>
    obtain ⟨t, ht⟩ := exec_total j s
    have hcfg := exec_cfg ht
    have hrest := ih t (hcfg ▸ hw) (hcfg ▸ hl) fun tid slot hmem => hpoll tid slot (List.mem_cons_of_mem j hmem)
    rw [edgeWoken_cons l js ht]
    by_cases hj : j = .svcEdge l
    · subst hj
      rw [if_pos rfl]
      rcases exec_svcEdge_woken ht hw hl with ⟨hnone, hkeep⟩ | ⟨hsome, hone, hclear⟩
      · rwa [hnone, List.nil_append, ← hkeep]
      · rcases hrest with hnone | ⟨hsome', -⟩
        · rw [hone, hnone]
          exact .inr ⟨hsome, rfl⟩
        · exact absurd hclear hsome'
    · have hkeep := exec_slotAt_ws ht hl (fun tid slot hj' => hpoll tid slot (hj' ▸ List.mem_cons_self)) hj
      rwa [if_neg hj, List.nil_append, ← hkeep]

/-! ## A run of TICK, PIN and edge services alone -/

/-- Clearing a registered identity takes it out of the registered ones. -/
theorem filter_set_noTask_perm (ts : List Byte) (i : Nat) (hi : i < ts.length) (hsome : ts[i] ≠ noTask) :
    (ts[i] :: (ts.set i noTask).filter (fun t => t != noTask)).Perm (ts.filter (fun t => t != noTask)) := by
  induction ts generalizing i with
  | nil => cases hi
  | cons x xs ih =>
    cases i with
    | zero =>
      have hx : x ≠ noTask := hsome
      simp [hx]
    | succ i =>
      have hrest := ih i (Nat.lt_of_succ_lt_succ hi) hsome
      by_cases hx : x = noTask
      · simpa [hx] using hrest
      · simpa [hx] using (List.Perm.swap _ _ _).trans (hrest.cons x)

/-- Clearing a slot registers nobody. -/
theorem filter_set_noTask_sublist (ts : List Byte) (i : Nat) :
    ((ts.set i noTask).filter (fun t => t != noTask)).Sublist (ts.filter (fun t => t != noTask)) := by
  induction ts generalizing i with
  | nil => exact List.Sublist.refl _
  | cons x xs ih =>
    cases i with
    | zero =>
      simp only [List.set_cons_zero, List.filter_cons_of_neg (p := fun t : Byte => t != noTask) (a := noTask) (by simp)]
      exact (List.sublist_cons_self x xs).filter _
    | succ i =>
      by_cases hx : x = noTask
      · simpa [hx] using ih i
      · simpa [hx] using (ih i).cons_cons x

theorem waiterIds_of_setWs {v w : State} {n : Nat} (hv : v.slots = (w.setWs n noTask).slots) :
    v.waiterIds = ((w.slots.map Slot.ws).set n noTask).filter (fun t => t != noTask) := by
  rw [State.waiterIds, hv, setWs_ws]

theorem lt_length_of_slotAt_ws_ne {s : State} {n : Nat} (h : (s.slotAt n).ws ≠ noTask) :
    n < (s.slots.map Slot.ws).length := by
  by_contra hge
  rw [slotAt_ws] at h
  exact h (List.getD_eq_default _ _ (Nat.not_lt.mp hge))

/-- A cleared slot's waiter, put back before those still registered, gives the registered identities. -/
theorem cons_waiterIds_perm {s v : State} {n : Nat} (hv : v.slots = (s.setWs n noTask).slots)
    (h : (s.slotAt n).ws ≠ noTask) : ((s.slotAt n).ws :: v.waiterIds).Perm s.waiterIds := by
  have hn := lt_length_of_slotAt_ws_ne h
  rw [waiterIds_of_setWs hv, slotAt_ws, List.getD_eq_getElem _ _ hn] at *
  exact filter_set_noTask_perm _ n hn h

/-- One service of a line: what it appends to RQ it takes out of the registered identities. -/
theorem exec_svcEdge_waiterIds {s t : State} {l : Nat} (h : exec (.svcEdge l) s = .next t) :
    ∃ woken, t.rq = s.rq ++ woken ∧ (woken ++ t.waiterIds).Subperm s.waiterIds := by
  have hnobody : ∀ v : State, v.rq = s.rq → v.waiterIds.Sublist s.waiterIds →
      ∃ woken, v.rq = s.rq ++ woken ∧ (woken ++ v.waiterIds).Subperm s.waiterIds := fun v hrq hids =>
    ⟨[], hrq.trans (List.append_nil _).symm, hids.subperm⟩
  rcases exec_svcEdge_cases h with rfl | ⟨-, -, rfl⟩ | ⟨-, n, -, rfl⟩
  · exact hnobody _ rfl (List.Sublist.refl _)
  · exact hnobody _ rfl (List.Sublist.refl _)
  · have hcleared : ∀ v : State, v.slots = ((s.clearPend l).setWs n noTask).slots → v.waiterIds.Sublist s.waiterIds :=
      fun v hv => waiterIds_of_setWs hv ▸ filter_set_noTask_sublist _ n
    rcases wakeWaiter_cases ((s.clearPend l).setWs n noTask) (s.slotAt n).ws State.awake with
      ⟨-, hend⟩ | ⟨hsome, -, hend⟩ | ⟨-, -, hend⟩
    · rw [hend]
      exact hnobody _ rfl (hcleared _ rfl)
    · rw [hend]
      exact ⟨[(s.slotAt n).ws], rfl, (cons_waiterIds_perm (s := s.clearPend l) rfl hsome).subperm⟩
    · rw [hend]
      exact hnobody _ rfl (hcleared _ rfl)

/-- TICK and PIN ask for no wake and keep the registrations; the edge service is the one that does not. -/
theorem exec_edgeStep_waiterIds {j : Instr} {s t : State}
    (hj : j = .tick ∨ (∃ l v, j = .pin l v) ∨ (∃ l, j = .svcEdge l)) (h : exec j s = .next t) :
    ∃ woken, t.rq = s.rq ++ woken ∧ (woken ++ t.waiterIds).Subperm s.waiterIds := by
  have hkept : t.rq = s.rq → t.slots = s.slots →
      ∃ woken, t.rq = s.rq ++ woken ∧ (woken ++ t.waiterIds).Subperm s.waiterIds := fun hrq hslots =>
    ⟨[], hrq.trans (List.append_nil _).symm, by rw [List.nil_append, State.waiterIds, hslots]; exact .refl _⟩
  rcases hj with rfl | ⟨l, v, rfl⟩ | ⟨l, rfl⟩
  · exact hkept (congrArg State.rq (exec_written h) :) (congrArg State.slots (exec_written h) :)
  · exact hkept (congrArg State.rq (exec_written h) :) (congrArg State.slots (exec_written h) :)
  · exact exec_svcEdge_waiterIds h

theorem execAll_waiterIds (js : List Instr) (s u : State)
    (hjs : ∀ j ∈ js, j = .tick ∨ (∃ l v, j = .pin l v) ∨ (∃ l, j = .svcEdge l)) (h : execAll js s = some u) :
    ∃ woken, u.rq = s.rq ++ woken ∧ (woken ++ u.waiterIds).Subperm s.waiterIds := by
  induction js generalizing s with
  | nil =>
    obtain rfl : s = u := Option.some_inj.mp h
    exact ⟨[], (List.append_nil _).symm, .refl _⟩
  | cons j js ih =>
    obtain ⟨t, ht, hrun⟩ := execAll_cons j js s
    obtain ⟨first, hrq, hfirst⟩ := exec_edgeStep_waiterIds (hjs j List.mem_cons_self) ht
    obtain ⟨later, hrq', hlater⟩ := ih t (fun i hi => hjs i (List.mem_cons_of_mem j hi)) (hrun ▸ h)
    refine ⟨first ++ later, by rw [hrq', hrq, List.append_assoc], ?_⟩
    rw [List.append_assoc]
    exact ((List.subperm_append_left first).mpr hlater).trans hfirst

/-- Settles O36: per slot, the first wake clears the registration that a second would need; over all slots, each service
takes out of the registered identities what it appends to RQ. -/
theorem edgesWakeEachWaiterAtMostOnce : Obligations.EdgesWakeEachWaiterAtMostOnce :=
  ⟨edgeWoken_le_one, execAll_waiterIds⟩

/-! ## The latency premise -/

theorem servedWithin_cons {j : Instr} {s t : State} (i : Instr) (ready : State → Bool) (lat left : Nat) (js : List Instr)
    (h : exec j s = .next t) (hready : ready s = true) (hj : j ≠ i) (hs : servedWithin i ready lat left (j :: js) s) :
    if j = .tick then 1 < left ∧ servedWithin i ready lat (left - 1) js t else servedWithin i ready lat left js t := by
  simpa [servedWithin, h, hready, hj] using hs

theorem execAll_fatal {js : List Instr} {s u : State} (h : execAll js s = some u) (hs : s.fatal = true) :
    u.fatal = true := by
  induction js generalizing s with
  | nil =>
    obtain rfl : s = u := Option.some_inj.mp h
    exact hs
  | cons j js ih =>
    obtain ⟨t, ht, hrun⟩ := execAll_cons j js s
    exact ih (hrun ▸ h) (exec_fatal_mono ht hs)

/-- Only the wrap service itself, or a halt, ends the wait of the wrap service: TK_INIT runs once (R19, R104). -/
theorem exec_svcWrapReady {j : Instr} {s t : State} (h : exec j s = .next t) (hj : j ≠ .svcWrap)
    (hready : s.svcWrapReady = true) (ht : t.fatal = false) : t.svcWrapReady = true := by
  obtain ⟨-, htken, hwf⟩ := s.svcWrapReady_iff.mp hready
  refine t.svcWrapReady_iff.mpr ⟨t.fatal_eq_false_iff.mp ht, exec_tken_mono h htken, ?_⟩
  by_cases hinit : j = .tkInit
  · subst hinit
    rcases exec_tkInit_cases h with hend | ⟨-, hidle, -⟩
    · exact (congrArg State.wf hend :).trans hwf
    · rw [htken] at hidle
      cases hidle
  · exact exec_wf_of_true h hinit hj hwf

theorem servedWithin_count_tick (js : List Instr) (s u : State) (lat left : Nat) (hready : s.svcWrapReady = true)
    (hserved : servedWithin .svcWrap State.svcWrapReady lat left js s) (hnone : Instr.svcWrap ∉ js)
    (hrun : execAll js s = some u) (hu : u.fatal = false) : js.count .tick = 0 ∨ js.count .tick < left := by
  induction js generalizing s left with
  | nil => exact .inl List.count_nil
  | cons j js ih =>
    obtain ⟨t, ht, hcons⟩ := execAll_cons j js s
    rw [hcons] at hrun
    have hj : j ≠ .svcWrap := fun h => hnone (h ▸ List.mem_cons_self)
    have hnone' : Instr.svcWrap ∉ js := fun h => hnone (List.mem_cons_of_mem j h)
    have hfatal : t.fatal = false := by
      by_contra hhalt
      rw [execAll_fatal hrun (Bool.eq_true_of_not_eq_false hhalt)] at hu
      cases hu
    have hready' := exec_svcWrapReady ht hj hready hfatal
    have hserved' := servedWithin_cons _ _ lat left js ht hready hj hserved
    by_cases htick : j = .tick
    · rw [if_pos htick] at hserved'
      obtain ⟨hleft, hserved'⟩ := hserved'
      have hrest := ih t (left - 1) hready' hserved' hnone' hrun
      rw [htick, List.count_cons_self]
      omega
    · rw [if_neg htick] at hserved'
      rw [List.count_cons_of_ne htick]
      exact ih t left hready' hserved' hnone' hrun

/-- Settles O56: an enabled wrap service stays enabled, so every tick of the run is counted against SVC_LAT. -/
theorem latencyPremiseBoundsTheWrapService : Obligations.LatencyPremiseBoundsTheWrapService := by
  intro js s u hready hlat hnone hrun hu hpos
  obtain ⟨-, hwrap, -⟩ := hlat
  have hcount := servedWithin_count_tick js s u _ _ hready hwrap hnone hrun hu
  omega

end Sys2Proof.Machine
end

section
/-! PROOFS. The reference clients: one poll of the Button and one of the LED, taken apart into the host operations they
perform (20_memory.md R57, 46_clients.md R163 to R168). -/

namespace Sys2Proof.Machine

/-! ## A host operation by the protocol of R57 -/

/-- The state in which an operation that HOST issues is performed: its operand in ARG, if it has one, its word in CMD (R57). -/
def State.withOp (s : State) (i : Instr) (arg : Option Word) : State :=
  { s with arg := arg.getD s.arg, cmd := (encode i).getD s.cmd }

@[simp] theorem withOp_cfg (s : State) (i : Instr) (arg : Option Word) : (s.withOp i arg).cfg = s.cfg := rfl

@[simp] theorem withOp_cnt (s : State) (i : Instr) (arg : Option Word) : (s.withOp i arg).cnt = s.cnt := rfl

theorem hostOp_eq {s t : State} {i : Instr} (arg : Option Word) (h : s.hostReady = true) (hi : i.isHostOp = true)
    (hexec : exec i (s.withOp i arg) = .next t) : hostOp i arg s = t := by
  obtain ⟨w, hw⟩ := encode_isSome_of_isHostOp i hi
  have hdecode := decode_of_encode i w hw
  cases arg with
  | none =>
    have hcmd : hostWrite 0x00 .word w s = .next t := by
      rw [hostWrite_cmd s w i h hdecode, ← hexec, State.withOp, hw]
      rfl
    simp [hostOp, hw, afterAccess, hcmd]
  | some a =>
    have hcmd : hostWrite 0x00 .word w { s with arg := a } = .next t := by
      rw [hostWrite_cmd { s with arg := a } w i h hdecode, ← hexec, State.withOp, hw]
      rfl
    simp [hostOp, hw, afterAccess, hostWrite_arg s a h, hcmd]

theorem pollWait_eq {s t : State} {tid : Byte} {r : WaitRecord} (h : hostOp (.tkPoll tid r.ph) (some r.endTime) s = t)
    (hf : t.fatal = false) : pollWait tid r s = (WaitRecord.mk t.phn r.endTime, t) := by
  simp [pollWait, h, hf]

/-- The block after TK_START with an admissible duration d. -/
def State.started (s : State) (d : Word) : State := (s.withOp .tkStart (some d)).done (tAdd s.cfg s.cnt d) 0#32

theorem startWait_eq {s : State} {d : Word} (h : s.hostReady = true) (hd : d.toNat ≤ s.cfg.maxDur) :
    startWait d s = (WaitRecord.mk .init (tAdd s.cfg s.cnt d), s.started d) := by
  have hop := hostOp_eq (some d) h rfl (exec_tkStart_inRange (s.withOp .tkStart (some d)) h hd)
  rw [startWait, hop]
  rfl

/-! ## The poll word -/

theorem ready_of_pending {t : State} (h : t.res0 = 2#32) : t.ready = false := by
  rw [State.ready, h]
  decide

theorem phn_of_pending {t : State} (h : t.res0 = 2#32) : t.phn = .wait := by
  rw [State.phn, h]
  decide

theorem ready_of_ready {t : State} (h : t.res0 = 1#32 ∨ t.res0 = 3#32) : t.ready = true := by
  rcases h with h | h <;> rw [State.ready, h] <;> decide

/-! ## The first poll of a deadline-wait -/

theorem wf_ntask_pos (c : Config) (h : c.wf = true) : 0 < c.ntask := by
  simp only [Config.wf, Config.ntaskOk, Bool.and_eq_true, decide_eq_true_eq] at h
  omega

/-- What the first poll of a deadline-wait by task tid needs of the block. -/
structure State.CanWait (s : State) (tid : Byte) : Prop where
  ready : s.hostReady = true
  cfg_wf : s.cfg.wf = true
  cnt_lt : s.cnt.toNat < s.cfg.mod
  entries_lt : ∀ e ∈ s.heap, e.d.toNat < s.cfg.mod
  tid_lt : tid.toNat < s.cfg.ntask
  tken : s.tken = true
  heap_room : s.heap.length ≠ s.cfg.heapCap
  rq_room : s.rq.length + s.wakeCount ≤ s.cfg.rqCap

theorem State.Inv.canWait {s : State} {tid : Byte} (hinv : s.Inv) (hs : s.hostReady = true) (htk : s.tken = true)
    (ht : tid.toNat < s.cfg.ntask) (hheap : s.heap.length < s.cfg.heapCap)
    (hroom : s.rq.length + s.wakeCount ≤ s.cfg.rqCap) : s.CanWait tid := by
  obtain ⟨hw, htimer, -⟩ := (inv_iff s).mp hinv
  exact ⟨hs, hw, htimer.cnt_lt, fun e he => (htimer.entries e he).1, ht, htk, hheap.ne, hroom⟩

section
variable {s : State} {tid : Byte}

theorem State.CanWait.withOp (h : s.CanWait tid) (i : Instr) (arg : Option Word) : (s.withOp i arg).CanWait tid :=
  ⟨h.ready, h.cfg_wf, h.cnt_lt, h.entries_lt, h.tid_lt, h.tken, h.heap_room, h.rq_room⟩

theorem State.CanWait.done (h : s.CanWait tid) (r0 r1 : Word) : (s.done r0 r1).CanWait tid :=
  ⟨h.ready, h.cfg_wf, h.cnt_lt, h.entries_lt, h.tid_lt, h.tken, h.heap_room, h.rq_room⟩

theorem State.CanWait.takeItem (h : s.CanWait tid) (i : Nat) : (s.takeItem i).CanWait tid :=
  ⟨h.ready, h.cfg_wf, h.cnt_lt, h.entries_lt, h.tid_lt, h.tken, h.heap_room, h.rq_room⟩

theorem State.CanWait.setMbw (h : s.CanWait tid) (i : Nat) (t : Byte) : (s.setMbw i t).CanWait tid :=
  ⟨h.ready, h.cfg_wf, h.cnt_lt, h.entries_lt, h.tid_lt, h.tken, h.heap_room, h.rq_room⟩

/-- A send appends at most one identity, and so leaves room for the wakes of the expired entries. -/
theorem State.CanWait.sent (h : s.CanWait tid) (i : Nat) (hroom : s.rq.length + 1 + s.wakeCount ≤ s.cfg.rqCap) :
    (s.sent i).CanWait tid := by
  have hlen : (s.sent i).rq.length = s.rq.length + (s.wakerOf i).length := by rw [sent_rq, List.length_append]
  have hle := length_wakerOf_le s i
  exact ⟨h.ready, h.cfg_wf, h.cnt_lt, h.entries_lt, h.tid_lt, h.tken, h.heap_room, by
    rw [hlen]
    exact (Nat.add_le_add_right (Nat.add_le_add_left hle _) _).trans hroom⟩

theorem State.CanWait.started (h : s.CanWait tid) (d : Word) : (s.started d).CanWait tid := (h.withOp _ _).done _ _

end

/-- An entry that has not elapsed is still in H after the run that its registration causes. -/
theorem State.Serviced.mem_heap {s t : State} {e : Entry} {h : List Entry} (hs : s.Serviced (e :: h) t)
    (he : elapsed s.cfg e.d s.cnt = false) : e ∈ t.heap := by
  obtain ⟨popped, rest, hperm, hel, -, -, -, -, hheap, -⟩ := hs
  rcases List.mem_append.mp (hperm.mem_iff.mpr List.mem_cons_self) with hmem | hmem
  · rw [hel e hmem] at he
    cases he
  · rw [hheap, if_neg (List.ne_nil_of_mem hmem)]
    exact hmem

theorem pollWait_init {s : State} {tid : Byte} {e : Word} (h : s.CanWait tid) (he : e.toNat < s.cfg.mod)
    (hel : elapsed s.cfg e s.cnt = false) : ∃ t, pollWait tid (WaitRecord.mk .init e) s = (WaitRecord.mk .wait e, t) ∧
      t.fatal = false ∧ t.ready = false ∧ t.mboxes = s.mboxes ∧ Entry.mk e tid ∈ t.heap := by
  have hroom : s.rq.length + (Entry.mk e tid :: s.heap).countP (wakes s.cfg s.cnt) ≤ s.cfg.rqCap := by
    rw [List.countP_cons_of_neg (by simp [wakes, hel])]
    exact h.rq_room
  obtain ⟨-, hinit⟩ := tkPollInitRegistersTheDeadline (s.withOp (.tkPoll tid .init) (some e)) tid h.ready h.cfg_wf h.cnt_lt
    h.entries_lt h.tid_lt he h.tken
  obtain ⟨t, hexec, hends, hfits⟩ := hinit h.heap_room
  obtain ⟨hf, hserved⟩ := hfits hroom
  have hop := hostOp_eq (some e) h.ready rfl hexec
  have hfatal := t.fatal_eq_false_iff.mpr hf
  rcases hends with ⟨-, hframe⟩ | ⟨hhalted, -⟩
  · have hres : t.res0 = 2#32 := (congrArg State.res0 hframe :)
    refine ⟨t, ?_, hfatal, ready_of_pending hres, (congrArg State.mboxes hframe :), hserved.mem_heap hel⟩
    rw [pollWait_eq (r := WaitRecord.mk .init e) hop hfatal, phn_of_pending hres]
  · exact absurd hroom hhalted.overflow.not_ge

theorem toNat_ofNat_of_le_maxDur (c : Config) (hw : c.wf = true) {n : Nat} (h : n ≤ c.maxDur) :
    (BitVec.ofNat 32 n).toNat = n := by
  have hmod := wf_mod_le c hw
  have hhalf := wf_mod_eq c hw
  have hpos := half_pos c
  rw [Config.maxDur] at h
  rw [BitVec.toNat_ofNat, Nat.mod_eq_of_lt (by omega)]

/-- A duration from 1 to MAX_DUR has not elapsed at its start (R95). -/
theorem not_elapsed_tAdd (c : Config) (hw : c.wf = true) (now d : Word) (hn : now.toNat < c.mod) (hpos : 0 < d.toNat)
    (hd : d.toNat ≤ c.maxDur) : elapsed c (tAdd c now d) now = false := by
  have hiff := elapsed_after c hw (tAdd c now d) now now.toNat d.toNat 0 (tAdd_toNat c (wf_mod_le c hw) now d)
    (Nat.mod_eq_of_lt hn).symm hd (by omega)
  exact Bool.eq_false_iff.mpr fun hel => absurd (hiff.mp hel) (by omega)

/-- The first poll of the wait that TK_START just began registers its deadline and is Pending. -/
theorem pollWait_started {s : State} {tid : Byte} {d : Word} (h : s.CanWait tid) (hpos : 0 < d.toNat)
    (hmax : d.toNat ≤ s.cfg.maxDur) :
    ∃ t, pollWait tid (WaitRecord.mk .init (tAdd s.cfg s.cnt d)) (s.started d) =
        (WaitRecord.mk .wait (tAdd s.cfg s.cnt d), t) ∧
      t.fatal = false ∧ t.ready = false ∧ t.mboxes = s.mboxes ∧ Entry.mk (tAdd s.cfg s.cnt d) tid ∈ t.heap :=
  pollWait_init (h.started d) (tAdd_lt s.cfg (wf_mod_le _ h.cfg_wf) s.cnt d)
    (not_elapsed_tAdd s.cfg h.cfg_wf s.cnt d h.cnt_lt hpos hmax)

/-! ## The Button -/

theorem Button.loop_of_pending {tid : Byte} {n : Nat} {b b' : Button} {s t : State}
    (h : Button.turn tid b s = .pending b' t) : Button.loop tid (n + 1) b s = (b', t) := by
  simp [Button.loop, h]

theorem Button.loop_of_again {tid : Byte} {n : Nat} {b b' : Button} {s t : State}
    (h : Button.turn tid b s = .again b' t) : Button.loop tid (n + 1) b s = Button.loop tid n b' t := by
  simp [Button.loop, h]

/-- In Debounce a wait that is Pending ends the poll. -/
theorem Button.turn_debounce_pending {tid : Byte} {r r' : WaitRecord} {s t : State} (h : pollWait tid r s = (r', t))
    (hready : t.ready = false) :
    Button.turn tid (Button.mk .debounce r) s = .pending (Button.mk .debounce r') t := by
  simp [Button.turn, h, hready]

/-- Settles O59: the one operation of the poll is TK_POLL in phase Wait, which is Pending. -/
theorem buttonSendsNothingInTheWindow : Obligations.ButtonSendsNothingInTheWindow := by
  intro s e hinv hs htk he hel
  obtain ⟨hw, -⟩ := (inv_iff s).mp hinv
  have hexec := exec_tkPoll_wait (s.withOp (.tkPoll 0#8 .wait) (some e)) 0#8 hs (wf_ntask_pos _ hw) he htk
  have hop := hostOp_eq (some e) hs rfl (hexec.trans (congrArg (fun r => Host.Outcome.next (State.done _ r 0#32))
    (if_neg (Bool.eq_false_iff.mp hel))))
  have hpoll := pollWait_eq (r := WaitRecord.mk .wait e) hop ((s.hostReady_iff.mp hs).1 :)
  rw [Button.poll, Button.loop_of_pending (Button.turn_debounce_pending hpoll (ready_of_pending rfl)), phn_of_pending rfl]
  rfl

theorem hostOp_ewPoll_atTarget {s : State} {tid slot : Byte} (h : s.hostReady = true) (ht : tid.toNat < s.cfg.ntask)
    (hslot : slot.toNat < s.cfg.nslot) (htarget : s.atTarget slot.toNat = true) :
    hostOp (.ewPoll tid slot) none s = (s.withOp (.ewPoll tid slot) none).done 1#32 0#32 :=
  hostOp_eq none h rfl ((exec_ewPoll_inRange (s.withOp _ none) tid slot h ht hslot).trans
    (congrArg Host.Outcome.next (if_pos htarget)))

theorem hostOp_mbSend_room {s : State} {m : Byte} (v : Word) (h : s.hostReady = true) (hm : m.toNat < s.cfg.nmbox)
    (hroom : s.rq.length < s.cfg.rqCap) :
    hostOp (.mbSend m) (some v) s = (s.withOp (.mbSend m) (some v)).sent m.toNat :=
  hostOp_eq (some v) h rfl (exec_mbSend_room _ m h hm hroom)

@[simp] theorem sent_cfg (s : State) (i : Nat) : (s.sent i).cfg = s.cfg := rfl

@[simp] theorem sent_cnt (s : State) (i : Nat) : (s.sent i).cnt = s.cnt := rfl

/-- The block after the Button's poll of the line at its target. -/
def State.pressPolled (s : State) : State := (s.withOp (.ewPoll 0#8 0#8) none).done 1#32 0#32

/-- The block after the Button's send. -/
def State.pressSent (s : State) : State := (s.pressPolled.withOp (.mbSend 0#8) (some pressed)).sent 0

@[simp] theorem pressSent_cfg (s : State) : s.pressSent.cfg = s.cfg := by
  simp [State.pressSent, State.pressPolled]

@[simp] theorem pressSent_cnt (s : State) : s.pressSent.cnt = s.cnt := by
  simp [State.pressSent, State.pressPolled]

theorem wf_nslot_pos (c : Config) (h : c.wf = true) : 0 < c.nslot := by
  simp only [Config.wf, Config.slotsOk, Bool.and_eq_true, decide_eq_true_eq] at h
  omega

theorem wf_nmbox_pos (c : Config) (h : c.wf = true) : 0 < c.nmbox := by
  simp only [Config.wf, Config.nmboxOk, Bool.and_eq_true, decide_eq_true_eq] at h
  omega

/-- The debounce window is an admissible duration of every block: HALF is at least 128. -/
theorem window_le_maxDur (c : Config) (h : c.wf = true) : 100 ≤ c.maxDur := by
  have hhalf : 2 ^ 7 ≤ c.half := Nat.pow_le_pow_right (by decide) (by have := wf_tickW c h; omega)
  rw [Config.maxDur]
  omega

theorem pressSent_canWait {s : State} (h : s.CanWait 0#8) (hroom : s.rq.length + 1 + s.wakeCount ≤ s.cfg.rqCap) :
    s.pressSent.CanWait 0#8 :=
  (((h.withOp _ _).done _ _).withOp _ _).sent 0 hroom

theorem Button.turn_press {s : State} {b : Button} (h : s.CanWait 0#8) (hb : b.state = .waitForPress)
    (htarget : s.atTarget 0 = true) (hroom : s.rq.length + 1 + s.wakeCount ≤ s.cfg.rqCap) :
    Button.turn 0#8 b s =
      .again (Button.mk .debounce (WaitRecord.mk .init (tAdd s.cfg s.cnt 100#32))) (s.pressSent.started 100#32) := by
  have hsent := pressSent_canWait h hroom
  have hpoll : hostOp (.ewPoll 0#8 0#8) none s = s.pressPolled :=
    hostOp_ewPoll_atTarget h.ready h.tid_lt (wf_nslot_pos _ h.cfg_wf) htarget
  have hsend : hostOp (.mbSend 0#8) (some pressed) s.pressPolled = s.pressSent :=
    hostOp_mbSend_room pressed h.ready (wf_nmbox_pos _ h.cfg_wf) (show s.rq.length < s.cfg.rqCap by omega)
  have hstart := startWait_eq (d := 100#32) hsent.ready (window_le_maxDur _ hsent.cfg_wf)
  have hready : s.pressPolled.ready = true := ready_of_ready (.inl rfl)
  have hpolled : s.pressPolled.fatal = false := (s.hostReady_iff.mp h.ready).1
  have hlive : s.pressSent.fatal = false := (State.hostReady_iff _).mp hsent.ready |>.1
  simp [Button.turn, hb, hpoll, hsend, hstart, hready, hpolled, hlive]

theorem pressSent_mboxAt (s : State) (h : 0 < s.mboxes.length) :
    s.pressSent.mboxAt 0 = Mailbox.mk true 1#32 (s.mboxAt 0).mbw :=
  sent_mboxAt (s.pressPolled.withOp (.mbSend 0#8) (some pressed)) 0 h

/-- Settles O58: one turn sends and starts the wait, and the next one, in Debounce, registers its deadline and is Pending. -/
theorem buttonSendsOnePressAndStartsTheWindow : Obligations.ButtonSendsOnePressAndStartsTheWindow := by
  intro s b hinv hs htk hb htarget hheap hroom
  obtain ⟨hw, -, -, hmbox, -⟩ := (inv_iff s).mp hinv
  have hcan : s.CanWait 0#8 := hinv.canWait hs htk (wf_ntask_pos _ hw) hheap (by omega)
  obtain ⟨t, hpoll, hf, hready, hmboxes, hmem⟩ := pollWait_started (d := 100#32) (pressSent_canWait hcan hroom) (by decide)
    (window_le_maxDur _ (pressSent_canWait hcan hroom).cfg_wf)
  rw [pressSent_cfg, pressSent_cnt] at hpoll hmem
  refine ⟨tAdd s.cfg s.cnt 100#32, t, tAdd_toNat s.cfg (wf_mod_le _ hw) s.cnt 100#32, ?_, hf, ?_, hmem⟩
  · rw [Button.poll, Button.loop_of_again (Button.turn_press hcan hb htarget hroom),
      Button.loop_of_pending (Button.turn_debounce_pending hpoll hready)]
  · rw [State.mboxAt, hmboxes]
    exact pressSent_mboxAt s (hmbox.length ▸ wf_nmbox_pos _ hw)

/-! ## The LED -/

theorem hostOp_mbRecv_present {s : State} {tid m : Byte} (h : s.hostReady = true) (ht : tid.toNat < s.cfg.ntask)
    (hm : m.toNat < s.cfg.nmbox) (hfull : (s.mboxAt m.toNat).mbf = true) :
    hostOp (.mbRecv tid m .wait) none s =
      ((s.withOp (.mbRecv tid m .wait) none).takeItem m.toNat).done 3#32 (s.mboxAt m.toNat).mbi :=
  hostOp_eq none h rfl (exec_mbRecv_wait_present _ tid m h ht hm hfull)

theorem hostOp_mbRecv_init {s : State} {tid m : Byte} (h : s.hostReady = true) (ht : tid.toNat < s.cfg.ntask)
    (hm : m.toNat < s.cfg.nmbox) : hostOp (.mbRecv tid m .init) none s =
      ((s.withOp (.mbRecv tid m .init) none).setMbw m.toNat tid).done 2#32 0#32 :=
  hostOp_eq none h rfl (exec_mbRecv_inRange _ tid m .init h ht hm)

/-- The block after the LED's receive took an item. -/
def State.eventTaken (s : State) : State :=
  ((s.withOp (.mbRecv 1#8 0#8 .wait) none).takeItem 0).done 3#32 (s.mboxAt 0).mbi

/-- The block after the LED's receive was renewed. -/
def State.eventRenewed (s : State) : State :=
  ((s.eventTaken.withOp (.mbRecv 1#8 0#8 .init) none).setMbw 0 1#8).done 2#32 0#32

@[simp] theorem eventRenewed_cfg (s : State) : s.eventRenewed.cfg = s.cfg := by
  simp [State.eventRenewed, State.eventTaken]

@[simp] theorem eventRenewed_cnt (s : State) : s.eventRenewed.cnt = s.cnt := by
  simp [State.eventRenewed, State.eventTaken]

theorem eventTaken_canWait {s : State} {tid : Byte} (h : s.CanWait tid) : s.eventTaken.CanWait tid :=
  ((h.withOp _ _).takeItem 0).done _ _

theorem eventRenewed_canWait {s : State} {tid : Byte} (h : s.CanWait tid) : s.eventRenewed.CanWait tid :=
  (((eventTaken_canWait h).withOp _ _).setMbw 0 _).done _ _

/-- A taken item leaves its bits, and the renewed receive its caller (R134). -/
theorem eventRenewed_mboxAt {s : State} (h : 0 < s.mboxes.length) :
    s.eventRenewed.mboxAt 0 = Mailbox.mk false (s.mboxAt 0).mbi 1#8 := by
  have htaken : s.eventTaken.mboxes = s.mboxes.set 0 (Mailbox.mk false (s.mboxAt 0).mbi (s.mboxAt 0).mbw) := rfl
  have hset : s.eventRenewed.mboxes =
      s.eventTaken.mboxes.set 0 (Mailbox.mk (s.eventTaken.mboxAt 0).mbf (s.eventTaken.mboxAt 0).mbi 1#8) := rfl
  rw [State.mboxAt, hset, set_getD_self _ _ _ _ (by rw [htaken, List.length_set]; exact h), State.mboxAt, htaken,
    set_getD_self _ _ _ _ h]

theorem Led.receive_pressed {s : State} {l : Led} {d : Word} (h : s.CanWait 1#8) (hrx : l.rx = .wait)
    (hfull : (s.mboxAt 0).mbf = true) (hitem : (s.mboxAt 0).mbi = pressed)
    (hd : d = BitVec.ofNat 32 (nextPeriod l.period)) (hmax : d.toNat ≤ s.cfg.maxDur) :
    Led.receive 1#8 l s = (Led.mk .wait (nextPeriod l.period) .wait (WaitRecord.mk .init (tAdd s.cfg s.cnt d)) (!l.led),
      s.eventRenewed.started d) := by
  have htaken := eventTaken_canWait h
  have htake : hostOp (.mbRecv 1#8 0#8 .wait) none s = s.eventTaken :=
    hostOp_mbRecv_present h.ready h.tid_lt (wf_nmbox_pos _ h.cfg_wf) hfull
  have hrenew : hostOp (.mbRecv 1#8 0#8 .init) none s.eventTaken = s.eventRenewed :=
    hostOp_mbRecv_init htaken.ready htaken.tid_lt (wf_nmbox_pos _ htaken.cfg_wf)
  have hstart := startWait_eq (s := s.eventRenewed) (d := d) (eventRenewed_canWait h).ready
    (by rwa [eventRenewed_cfg])
  have hlive : s.eventTaken.fatal = false := (State.hostReady_iff _).mp htaken.ready |>.1
  have hready : s.eventTaken.ready = true := ready_of_ready (.inr rfl)
  have hphn : s.eventRenewed.phn = .wait := phn_of_pending rfl
  have hres : s.eventTaken.res1 = pressed := hitem
  subst hd
  simp [Led.receive, hrx, htake, hrenew, hstart, hlive, hready, hphn, hres]

/-- In Wait a deadline-wait that is Pending ends the poll. -/
theorem Led.turn_wait_pending {tid : Byte} {p : Nat} {rx : Phase} {r r' : WaitRecord} {o : Bool} {s t : State}
    (h : pollWait tid r s = (r', t)) (hready : t.ready = false) :
    Led.turn tid (Led.mk .wait p rx r o) s = .pending (Led.mk .wait p rx r' o) t := by
  simp [Led.turn, h, hready]

theorem Led.loop_of_pending {tid : Byte} {n : Nat} {l l' : Led} {s t : State}
    (h : Led.turn tid l s = .pending l' t) : Led.loop tid (n + 1) l s = (l', t) := by
  simp [Led.loop, h]

theorem Led.poll_of_receive {tid : Byte} {l l' : Led} {s t : State} (h : Led.receive tid l s = (l', t))
    (hf : t.fatal = false) : Led.poll tid l s = Led.loop tid 4 l' t := by
  simp [Led.poll, h, hf]

/-- Settles O60: the receive takes the event and starts the new wait, and the one turn after it registers its deadline and is
Pending. -/
theorem ledTogglesOnceAndChangesThePeriod : Obligations.LedTogglesOnceAndChangesThePeriod := by
  intro s l hinv hs htk ht hrx hfull hitem hmax hheap hroom
  obtain ⟨hw, -, -, hmbox, -⟩ := (inv_iff s).mp hinv
  have hcan : s.CanWait 1#8 := hinv.canWait hs htk ht hheap hroom
  have hrenewed := eventRenewed_canWait hcan
  have hlow := le_nextPeriod l.period
  obtain ⟨d, hd⟩ : ∃ d, d = BitVec.ofNat 32 (nextPeriod l.period) := ⟨_, rfl⟩
  have hperiod : d.toNat = nextPeriod l.period := hd ▸ toNat_ofNat_of_le_maxDur s.cfg hw hmax
  have hreceive := Led.receive_pressed hcan hrx hfull hitem hd (hperiod ▸ hmax)
  obtain ⟨t, hpoll, hf, hready, hmboxes, hmem⟩ := pollWait_started (d := d) hrenewed (by omega)
    (by rw [eventRenewed_cfg, hperiod]; exact hmax)
  rw [eventRenewed_cfg, eventRenewed_cnt] at hpoll hmem
  refine ⟨tAdd s.cfg s.cnt d, t, ?_, ?_, hf, ?_, hmem⟩
  · rw [tAdd_toNat s.cfg (wf_mod_le _ hw), hperiod]
  · rw [Led.poll_of_receive hreceive ((State.hostReady_iff _).mp (hrenewed.started d).ready).1,
      Led.loop_of_pending (Led.turn_wait_pending hpoll hready)]
  · rw [State.mboxAt, hmboxes]
    exact (eventRenewed_mboxAt (hmbox.length ▸ wf_nmbox_pos _ hw)).trans (by rw [hitem])

end Sys2Proof.Machine
end

section
/-! PROOFS. The reference array heap (41_ticker.md R100, PRESUMED, log 6): the heap order on the keys of the places, what
one turn of each loop does to it, and R96 to R99 for this election. -/

namespace Sys2Proof.Machine

/-! ## Heap order on keys -/

/-- Place j is a child of place i in the array (R100). -/
abbrev ChildOf (i j : Nat) : Prop := j = 2 * i + 1 ∨ j = 2 * i + 2

/-- The keys k of the first n places are in heap order. -/
def HeapKeys (k : Nat → Int) (n : Nat) : Prop := ∀ p j, ChildOf p j → j < n → k p ≤ k j

/-- Heap order but for place i, which may be below its parent; the children of i are in order with that parent. -/
def HeapKeysButUp (k : Nat → Int) (n i : Nat) : Prop :=
  (∀ p j, ChildOf p j → j < n → j ≠ i → k p ≤ k j) ∧ ∀ p j, ChildOf p i → ChildOf i j → j < n → k p ≤ k j

/-- Heap order but for place i, which may be above its children; these are in order with the parent of i. -/
def HeapKeysButDown (k : Nat → Int) (n i : Nat) : Prop :=
  (∀ p j, ChildOf p j → j < n → p ≠ i → k p ≤ k j) ∧ ∀ p j, ChildOf p i → ChildOf i j → j < n → k p ≤ k j

/-- The keys after places i and m were exchanged. -/
def swapKeys (k : Nat → Int) (i m : Nat) (x : Nat) : Int := if x = i then k m else if x = m then k i else k x

theorem swapKeys_left (k : Nat → Int) (i m : Nat) : swapKeys k i m i = k m := if_pos rfl

theorem swapKeys_right (k : Nat → Int) (i m : Nat) : swapKeys k i m m = k i := by
  by_cases h : m = i
  · rw [swapKeys, if_pos h, h]
  · rw [swapKeys, if_neg h, if_pos rfl]

theorem swapKeys_other (k : Nat → Int) {i m x : Nat} (hi : x ≠ i) (hm : x ≠ m) : swapKeys k i m x = k x := by
  rw [swapKeys, if_neg hi, if_neg hm]

/-- One turn of the loop of `heap_push`: place i goes up to its parent q. -/
theorem heapKeysButUp_swap {k : Nat → Int} {n i q : Nat} (h : HeapKeysButUp k n i) (hq : ChildOf q i) (hlt : k i < k q)
    (hi : i < n) : HeapKeysButUp (swapKeys k i q) n q := by
  obtain ⟨hout, hgrand⟩ := h
  refine ⟨fun p j hpj hj hne => ?_, fun p j hpq hqj hj => ?_⟩
  · by_cases hji : j = i
    · obtain rfl : p = q := by omega
      rw [hji, swapKeys_left, swapKeys_right]
      exact hlt.le
    · rw [swapKeys_other k hji hne]
      by_cases hpi : p = i
      · subst hpi
        rw [swapKeys_left]
        exact hgrand q j hq hpj hj
      · by_cases hpq : p = q
        · subst hpq
          rw [swapKeys_right]
          exact hlt.le.trans (hout p j hpj hj hji)
        · rw [swapKeys_other k hpi hpq]
          exact hout p j hpj hj hji
  · have hpq' : k p ≤ k q := hout p q hpq (by omega) (by omega)
    rw [swapKeys_other k (x := p) (by omega) (by omega)]
    by_cases hji : j = i
    · rwa [hji, swapKeys_left]
    · rw [swapKeys_other k hji (by omega)]
      exact hpq'.trans (hout q j hqj hj hji)

/-- One turn of the loop of `heap_pop`: place i sinks to its least child m. -/
theorem heapKeysButDown_swap {k : Nat → Int} {n i m : Nat} (h : HeapKeysButDown k n i) (hm : ChildOf i m) (hlt : k m < k i)
    (hleast : ∀ j, ChildOf i j → j < n → k m ≤ k j) (hmn : m < n) : HeapKeysButDown (swapKeys k i m) n m := by
  obtain ⟨hout, hgrand⟩ := h
  refine ⟨fun p j hpj hj hne => ?_, fun p j hpm hmj hj => ?_⟩
  · by_cases hpi : p = i
    · subst hpi
      rw [swapKeys_left]
      by_cases hjm : j = m
      · rw [hjm, swapKeys_right]
        exact hlt.le
      · rw [swapKeys_other k (by omega) hjm]
        exact hleast j hpj hj
    · rw [swapKeys_other k hpi hne]
      by_cases hji : j = i
      · subst hji
        rw [swapKeys_left]
        exact hgrand p m hpj hm hmn
      · rw [swapKeys_other k hji (by omega)]
        exact hout p j hpj hj hpi
  · obtain rfl : p = i := by omega
    rw [swapKeys_left, swapKeys_other k (by omega) (by omega)]
    exact hout m j hmj hj (by omega)

theorem heapKeys_zero_le {k : Nat → Int} {n : Nat} (h : HeapKeys k n) (j : Nat) (hj : j < n) : k 0 ≤ k j := by
  induction j using Nat.strongRecOn with
  | ind j ih =>
    rcases Nat.eq_zero_or_pos j with rfl | hpos
    · exact le_rfl
    · exact (ih ((j - 1) / 2) (by omega) (by omega)).trans (h ((j - 1) / 2) j (by omega) hj)

/-! ## The keys of an array -/

/-- The signed distance of the entry in place i; that of a place the array does not have is not used. -/
def keyAt (c : Config) (now : Word) (a : List Entry) (i : Nat) : Int := sdist c (a.getD i (Entry.mk 0#32 0#8)).d now

section
variable (c : Config) (now : Word)

theorem keyAt_of_getElem? {a b : List Entry} {i j : Nat} (h : a[i]? = b[j]?) : keyAt c now a i = keyAt c now b j := by
  rw [keyAt, keyAt, List.getD_eq_getElem?_getD, h, List.getD_eq_getElem?_getD]

theorem ltAt_iff (a : List Entry) (i j : Nat) :
    ltAt c now a i j = true ↔ i < a.length ∧ j < a.length ∧ keyAt c now a i < keyAt c now a j := by
  by_cases hi : i < a.length
  · by_cases hj : j < a.length
    · simp [ltAt, keyAt, hi, hj]
    · simp [ltAt, hj]
  · simp [ltAt, hi]

theorem arrayHeap_iff (a : List Entry) : ArrayHeap c now a ↔ HeapKeys (keyAt c now a) a.length := by
  have hlt : ∀ i j, ChildOf i j → (ltAt c now a j i = false ↔ (j < a.length → keyAt c now a i ≤ keyAt c now a j)) := by
    intro i j hchild
    rw [Bool.eq_false_iff, ne_eq, ltAt_iff]
    refine ⟨fun h hj => ?_, fun h hlt => ?_⟩
    · by_contra hgt
      exact h ⟨hj, by omega, not_le.mp hgt⟩
    · exact absurd (h hlt.1) (not_le.mpr hlt.2.2)
  exact ⟨fun h p j hchild => (hlt p j hchild).mp (h p j hchild), fun h p j hchild => (hlt p j hchild).mpr (h p j hchild)⟩

theorem swapAt_length (a : List Entry) (i j : Nat) : (swapAt a i j).length = a.length := (swapAt_perm a i j).length_eq

theorem keyAt_swapAt {a : List Entry} {i j : Nat} (hi : i < a.length) (hj : j < a.length) :
    keyAt c now (swapAt a i j) = swapKeys (keyAt c now a) i j := by
  have hswap : swapAt a i j = (a.set i a[j]).set j a[i] := by simp [swapAt, hi, hj]
  funext x
  by_cases hxj : x = j
  · rw [hxj, swapKeys_right]
    exact keyAt_of_getElem? c now (by simp [hswap, hi, hj])
  · by_cases hxi : x = i
    · rw [hxi, swapKeys_left]
      exact keyAt_of_getElem? c now (by rw [hswap, List.getElem?_set_ne (by omega)]; simp [hi, hj])
    · rw [swapKeys_other _ hxi hxj]
      exact keyAt_of_getElem? c now (by rw [hswap, List.getElem?_set_ne (by omega), List.getElem?_set_ne (by omega)])

/-! ## The loop of `heap_push` -/

theorem siftUp_arrayHeap (n i : Nat) (a : List Entry) (hfuel : i < n)
    (h : HeapKeysButUp (keyAt c now a) a.length i) : ArrayHeap c now (siftUp c now n i a) := by
  induction n generalizing i a with
  | zero => omega
  | succ n ih =>
    unfold siftUp
    split
    next hgo =>
      rw [Bool.and_eq_true, decide_eq_true_eq, ltAt_iff] at hgo
      obtain ⟨hpos, hi, hq, hlt⟩ := hgo
      refine ih _ _ (by omega) ?_
      rw [keyAt_swapAt c now hi hq, swapAt_length]
      exact heapKeysButUp_swap h (by omega) hlt hi
    next hstop =>
      rw [Bool.and_eq_true, decide_eq_true_eq, ltAt_iff] at hstop
      refine (arrayHeap_iff c now a).mpr fun p j hchild hj => ?_
      by_cases hji : j = i
      · subst hji
        obtain rfl : p = (j - 1) / 2 := by omega
        by_contra hgt
        exact hstop ⟨by omega, hj, by omega, not_le.mp hgt⟩
      · exact h.1 p j hchild hj hji

theorem heapInsert_arrayHeap (h : List Entry) (e : Entry) (hc : c.tie = .array) (hh : ArrayHeap c now h) :
    ArrayHeap c now (heapInsert c now h e) := by
  rw [arrayHeap_iff] at hh
  have hkey : ∀ i < h.length, keyAt c now (h ++ [e]) i = keyAt c now h i := fun i hi =>
    keyAt_of_getElem? c now (List.getElem?_append_left hi)
  rw [heapInsert, hc]
  refine siftUp_arrayHeap c now _ _ _ (Nat.lt_succ_self _) ⟨fun p j hchild hj hne => ?_, fun p j _ hchild hj => ?_⟩
  · rw [List.length_append, List.length_singleton] at hj
    rw [hkey p (by omega), hkey j (by omega)]
    exact hh p j hchild (by omega)
  · rw [List.length_append, List.length_singleton] at hj
    omega

/-! ## The loop of `heap_pop` -/

/-- The place picked for i: i itself where no child is below it, else its least child. -/
theorem siftPick_cases (a : List Entry) (i : Nat) :
    (siftPick c now a i = i ∧ ∀ j, ChildOf i j → j < a.length → keyAt c now a i ≤ keyAt c now a j) ∨
      ∃ m, siftPick c now a i = m ∧ ChildOf i m ∧ m < a.length ∧ keyAt c now a m < keyAt c now a i ∧
        ∀ j, ChildOf i j → j < a.length → keyAt c now a m ≤ keyAt c now a j := by
  have hnot : ∀ {x y}, ltAt c now a x y ≠ true → y < a.length → x < a.length → keyAt c now a y ≤ keyAt c now a x :=
    fun hlt hy hx => not_lt.mp fun hk => hlt ((ltAt_iff c now a _ _).mpr ⟨hx, hy, hk⟩)
  unfold siftPick
  by_cases hleft : ltAt c now a (2 * i + 1) i = true
  · obtain ⟨hl, hi, hkl⟩ := (ltAt_iff c now a _ _).mp hleft
    simp only [hleft, if_true]
    by_cases hright : ltAt c now a (2 * i + 2) (2 * i + 1) = true
    · obtain ⟨hr, -, hkr⟩ := (ltAt_iff c now a _ _).mp hright
      rw [if_pos hright]
      refine .inr ⟨_, rfl, .inr rfl, hr, hkr.trans hkl, ?_⟩
      rintro j (rfl | rfl) hj
      · exact hkr.le
      · exact le_rfl
    · rw [if_neg hright]
      refine .inr ⟨_, rfl, .inl rfl, hl, hkl, ?_⟩
      rintro j (rfl | rfl) hj
      · exact le_rfl
      · exact hnot hright hl hj
  · simp only [hleft]
    by_cases hright : ltAt c now a (2 * i + 2) i = true
    · obtain ⟨hr, hi, hkr⟩ := (ltAt_iff c now a _ _).mp hright
      refine .inr ⟨2 * i + 2, by simp [hright], .inr rfl, hr, hkr, ?_⟩
      rintro j (rfl | rfl) hj
      · exact hkr.le.trans (hnot hleft hi hj)
      · exact le_rfl
    · refine .inl ⟨by simp [hright], ?_⟩
      rintro j (rfl | rfl) hj
      · exact hnot hleft (by omega) hj
      · exact hnot hright (by omega) hj

theorem heapKeysButDown_arrayHeap {a : List Entry} {i : Nat} (h : HeapKeysButDown (keyAt c now a) a.length i)
    (hi : ∀ j, ChildOf i j → j < a.length → keyAt c now a i ≤ keyAt c now a j) : ArrayHeap c now a := by
  refine (arrayHeap_iff c now a).mpr fun p j hchild hj => ?_
  by_cases hp : p = i
  · subst hp
    exact hi j hchild hj
  · exact h.1 p j hchild hj hp

theorem siftDown_arrayHeap (n i : Nat) (a : List Entry) (hfuel : a.length ≤ i + n)
    (h : HeapKeysButDown (keyAt c now a) a.length i) : ArrayHeap c now (siftDown c now n i a) := by
  induction n generalizing i a with
  | zero => exact heapKeysButDown_arrayHeap c now (a := a) h fun j hchild hj => by omega
  | succ n ih =>
    unfold siftDown
    rcases siftPick_cases c now a i with ⟨hpick, hleast⟩ | ⟨m, hpick, hchild, hm, hlt, hleast⟩
    · rw [if_pos hpick]
      exact heapKeysButDown_arrayHeap c now h hleast
    · rw [if_neg (by omega), hpick]
      refine ih m _ (by rw [swapAt_length]; omega) ?_
      rw [keyAt_swapAt c now (by omega) hm, swapAt_length]
      exact heapKeysButDown_swap h hchild hlt hleast hm

theorem arrayPop_arrayHeap (h : List Entry) (hh : ArrayHeap c now h) : ArrayHeap c now (arrayPop c now h) := by
  rw [arrayHeap_iff] at hh
  match h with
  | [] => exact fun i j _ => by simp [arrayPop, ltAt]
  | [_] => exact fun i j _ => by simp [arrayPop, ltAt]
  | x :: b :: rest =>
    obtain ⟨last, hlast⟩ : ∃ last, last = (b :: rest).getLast (by simp) := ⟨_, rfl⟩
    have hlen : (last :: (b :: rest).dropLast).length = rest.length + 1 := by simp
    have hkey : ∀ i, 0 < i → i < rest.length + 1 →
        keyAt c now (last :: (b :: rest).dropLast) i = keyAt c now (x :: b :: rest) i := fun i hpos hi => by
      obtain ⟨i, rfl⟩ : ∃ i', i = i' + 1 := ⟨i - 1, by omega⟩
      refine keyAt_of_getElem? c now ?_
      rw [List.getElem?_cons_succ, List.getElem?_cons_succ, List.getElem?_dropLast, if_pos (by simpa using hi)]
    rw [arrayPop, ← hlast]
    refine siftDown_arrayHeap c now _ 0 _ (by omega) ⟨fun p j hchild hj hp => ?_, fun p j hchild => by omega⟩
    rw [hlen] at hj
    rw [hkey p (by omega) (by omega), hkey j (by omega) hj]
    exact hh p j hchild (by simp; omega)

end

/-! ## R96 to R99 under this election -/

theorem arrayHeap_head_le {c : Config} {now : Word} {h : List Entry} {e : Entry} (hh : ArrayHeap c now h)
    (he : h.head? = some e) : ∀ x ∈ h, sdist c e.d now ≤ sdist c x.d now := by
  intro x hx
  obtain ⟨j, hj, rfl⟩ := List.getElem_of_mem hx
  have hle := heapKeys_zero_le ((arrayHeap_iff c now h).mp hh) j hj
  rw [List.head?_eq_getElem?] at he
  simpa [keyAt, he, hj] using hle

/-- The first place of the array heap is elected (R98, R100). -/
theorem heapTop_eq_head? {s : State} (hc : s.cfg.tie = .array) (hh : ArrayHeap s.cfg s.cnt s.heap) :
    s.heapTop = s.heap.head? := by
  cases he : s.heap.head? with
  | none => exact (heapTop_none s).mpr (List.head?_eq_none_iff.mp he)
  | some e =>
    have hmem : e ∈ nearest s.cfg s.cnt s.heap :=
      (mem_nearest _ _ _ _).mpr ⟨List.mem_of_head? he, arrayHeap_head_le hh he⟩
    unfold State.heapTop
    split
    next hnone => rw [hnone] at hmem; cases hmem
    next x hone =>
      rw [hone] at hmem
      rw [List.mem_singleton.mp hmem]
    next hmany =>
      rw [hmany] at hmem
      simp only [electTop, hc, he, if_pos hmem]

theorem heapRemove_arrayHeap {c : Config} {now : Word} {h : List Entry} {e : Entry} (hc : c.tie = .array)
    (he : h.head? = some e) (hh : ArrayHeap c now h) : ArrayHeap c now (heapRemove c now h e) := by
  rw [heapRemove, hc]
  simp only [he, if_true]
  exact arrayPop_arrayHeap c now h hh

/-- Settles O31: the heap order puts a least entry first, and both loops restore the order that the new place breaks. -/
theorem arrayHeapIsAnInstanceOfTheElection : Obligations.ArrayHeapIsAnInstanceOfTheElection := by
  refine fun s hc hh => ⟨heapTop_eq_head? hc hh, fun e he => arrayHeap_head_le hh he, fun e => ?_, fun e he => ?_⟩
  · exact ⟨heapPush_perm s e, heapInsert_arrayHeap s.cfg s.cnt s.heap e hc hh⟩
  · have hmem := (heapTop_some s e he).1
    rw [heapTop_eq_head? hc hh] at he
    exact ⟨heapRemove_perm s.cfg s.cnt s.heap e hmem, heapRemove_arrayHeap hc he hh⟩

end Sys2Proof.Machine
end
